-- ==== Sys2Proof/Word.lean ====
section
/-!
DEFINITION. Bytes, 32-bit words, and the shapes the spec gives its data: a column of four bytes, a block of
four columns (00_scope R13, R14), a file of eleven round keys (10_state R40). Types and XOR only; every
function over them that a rule of the spec gives stands under Sys2Proof/Machine/.
-/

namespace Sys2Proof

/-- 00_scope R12: an 8-bit value. -/
abbrev Byte := BitVec 8

/-- 00_scope R11: a host register, a host access of size 4 and a command word are 32 bits wide. -/
abbrev Word := BitVec 32

/-- 00_scope R14: column c of a block is the bytes `b[4c], b[4c+1], b[4c+2], b[4c+3]` (rows 0..3). -/
structure Col where
  r0 : Byte
  r1 : Byte
  r2 : Byte
  r3 : Byte
deriving DecidableEq, Repr

/-- 00_scope R13, R14: sixteen bytes, held as the four columns of the column-major state view. -/
structure Block where
  c0 : Col
  c1 : Col
  c2 : Col
  c3 : Col
deriving DecidableEq, Repr

/-- 10_state R40: the eleven round keys RK[0..10]. -/
structure RoundKeys where
  k0 : Block
  k1 : Block
  k2 : Block
  k3 : Block
  k4 : Block
  k5 : Block
  k6 : Block
  k7 : Block
  k8 : Block
  k9 : Block
  k10 : Block
deriving DecidableEq, Repr

/-- Four zero bytes. -/
def Col.zero : Col := ⟨0, 0, 0, 0⟩

/-- Sixteen zero bytes. -/
def Block.zero : Block := ⟨.zero, .zero, .zero, .zero⟩

/-- 176 zero bytes, the reset value of RK (10_state R40). -/
def RoundKeys.zero : RoundKeys :=
  ⟨.zero, .zero, .zero, .zero, .zero, .zero, .zero, .zero, .zero, .zero, .zero⟩

/-- 00_scope R15: XOR of two columns is bytewise. -/
def Col.xor (a b : Col) : Col := ⟨a.r0 ^^^ b.r0, a.r1 ^^^ b.r1, a.r2 ^^^ b.r2, a.r3 ^^^ b.r3⟩

/-- 00_scope R15: "XOR of two blocks is bytewise". -/
def Block.xor (a b : Block) : Block :=
  ⟨a.c0.xor b.c0, a.c1.xor b.c1, a.c2.xor b.c2, a.c3.xor b.c3⟩

end Sys2Proof
end

