-- ==== Sys2Proof/Syntax.lean ====
section
/-!
DEFINITION. The fourteen commands of 30_encoding R102, one constructor for each row of spec/opcode_table.json.
Every operand but RIDX is implicit (R101).
-/

namespace Sys2Proof

/-- A command of the opcode map (30_encoding R102). -/
inductive Instr where
  /-- OP 0x00 -/
  | nop
  /-- OP 0x01 -/
  | expandKey
  /-- OP 0x02 -/
  | encBlock
  /-- OP 0x03 -/
  | decBlock
  /-- OP 0x04 -/
  | ecbEnc
  /-- OP 0x05 -/
  | ecbDec
  /-- OP 0x10 -/
  | subBytes
  /-- OP 0x11 -/
  | invSubBytes
  /-- OP 0x12 -/
  | shiftRows
  /-- OP 0x13 -/
  | invShiftRows
  /-- OP 0x14 -/
  | mixColumns
  /-- OP 0x15 -/
  | invMixColumns
  /-- OP 0x16; `ridx` is the field RIDX, bits [11:8] (R101), legal 0..10 (R103). -/
  | addRoundKey (ridx : BitVec 4)
  /-- OP 0x20 -/
  | gfMul
deriving DecidableEq, Repr

end Sys2Proof
end

