-- ==== Sys2Proof/WellFormed.lean ====
section
/-!
DEFINITION. Which terms of `Instr` are commands of the hardware: the round index of ADD_ROUND_KEY is at most 10
(30_encoding R103, R104).
-/

namespace Sys2Proof

/-- 30_encoding R103: `w[11:8] ≤ 10` for ADD_ROUND_KEY; no other command has an operand field. -/
def Instr.wf : Instr → Bool
  | .nop => true
  | .expandKey => true
  | .encBlock => true
  | .decBlock => true
  | .ecbEnc => true
  | .ecbDec => true
  | .subBytes => true
  | .invSubBytes => true
  | .shiftRows => true
  | .invShiftRows => true
  | .mixColumns => true
  | .invMixColumns => true
  | .addRoundKey ridx => decide (ridx.toNat ≤ 10)
  | .gfMul => true

end Sys2Proof
end

