-- ==== Sys2Proof/Decode.lean ====
section
/-!
DEFINITION. The command word (30_encoding R100): its fields, its decoding, total and rejecting by name, and after it
the encoder. Both follow the table of R102.
-/

namespace Sys2Proof

/-- 30_encoding R100: OP = bits [7:0]. -/
def opField (w : Word) : Byte := w.extractLsb' 0 8

/-- 30_encoding R100: RIDX = bits [11:8]. -/
def ridxField (w : Word) : BitVec 4 := w.extractLsb' 8 4

/-- 30_encoding R100: RSV = bits [31:12]. -/
def rsvField (w : Word) : BitVec 20 := w.extractLsb' 12 20

/-- Why a word is not legal (30_encoding R105). The hardware reports every one of them as ILLEGAL_CMD; the names
are the model's, notes/assumptions/24.md. -/
inductive DecodeError where
  /-- "any nonzero RSV" -/
  | reservedBitsSet
  /-- "every OP value not in rule R102" -/
  | unknownOpcode
  /-- "a nonzero RIDX with any OP other than 0x16" -/
  | roundIndexUnused
  /-- "RIDX = 11..15 with OP = 0x16" -/
  | roundIndexTooLarge
deriving DecidableEq, Repr

/-- 30_encoding R102: the thirteen opcodes without an operand field. -/
def plainOpcodes : List (Byte × Instr) :=
  [(0x00, .nop), (0x01, .expandKey), (0x02, .encBlock), (0x03, .decBlock), (0x04, .ecbEnc), (0x05, .ecbDec)]
  ++ [(0x10, .subBytes), (0x11, .invSubBytes), (0x12, .shiftRows), (0x13, .invShiftRows), (0x14, .mixColumns),
      (0x15, .invMixColumns), (0x20, .gfMul)]

/-- 30_encoding R102: the opcode of ADD_ROUND_KEY, the one command with an operand field. -/
def addRoundKeyOpcode : Byte := 0x16

/-- 30_encoding R103: the command a word stands for, or the reason it is not legal. -/
def decode (w : Word) : Except DecodeError Instr :=
  if rsvField w ≠ 0 then .error .reservedBitsSet
  else if opField w = addRoundKeyOpcode then
    if (ridxField w).toNat ≤ 10 then .ok (.addRoundKey (ridxField w)) else .error .roundIndexTooLarge
  else
    match plainOpcodes.lookup (opField w) with
    | none => .error .unknownOpcode
    | some i => if ridxField w = 0 then .ok i else .error .roundIndexUnused

/-- The opcode of a command (30_encoding R102). -/
def Instr.opcode : Instr → Byte
  | .nop => 0x00
  | .expandKey => 0x01
  | .encBlock => 0x02
  | .decBlock => 0x03
  | .ecbEnc => 0x04
  | .ecbDec => 0x05
  | .subBytes => 0x10
  | .invSubBytes => 0x11
  | .shiftRows => 0x12
  | .invShiftRows => 0x13
  | .mixColumns => 0x14
  | .invMixColumns => 0x15
  | .addRoundKey _ => 0x16
  | .gfMul => 0x20

/-- The field RIDX of a command: the round index of ADD_ROUND_KEY, zero for every other (30_encoding R103). -/
def Instr.ridx : Instr → BitVec 4
  | .addRoundKey r => r
  | .nop | .expandKey | .encBlock | .decBlock | .ecbEnc | .ecbDec | .subBytes | .invSubBytes | .shiftRows
  | .invShiftRows | .mixColumns | .invMixColumns | .gfMul => 0

/-- 30_encoding R100: the word RSV ++ RIDX ++ OP of a command. -/
def encode (i : Instr) : Word := (0 : BitVec 20) ++ i.ridx ++ i.opcode

/-- The command the decoder reads from a word numbered as spec/opcode_table.json numbers it. A command word is one
32-bit value (30_encoding R100), so the table's bit k is bit k of the word; bits at `nbits` and above are zero. -/
def decodeTableWord (nbits w : Nat) : Option Instr :=
  match decode (BitVec.ofNat 32 (w % 2 ^ nbits)) with
  | .ok i => some i
  | .error _ => none

end Sys2Proof
end

