-- ==== Sys2Proof/Config.lean ====
section
/-!
DEFINITION. What an instance of the block fixes (00_scope R10) and the values the spec leaves free. A free value
is a constant with no body, so nothing can be proved of it.
-/

namespace Sys2Proof.Config

/-- 00_scope R10: the reference value of BUF_BYTES. An instance's own value is `State.bufBytes`.
DESIGN CHOICE, notes/assumptions/2.md. -/
def referenceBufBytes : Nat := 4096

/-- 00_scope R10: BUF_BYTES is "a multiple of 16 with 32 ≤ BUF_BYTES ≤ 0xF000". -/
def bufBytesLegal (n : Nat) : Bool := n % 16 == 0 && decide (32 ≤ n) && decide (n ≤ 0xF000)

/-- 00_scope R10, 10_state R43, U6: BUF_INIT, the contents of BUF after power-up, "a draw per byte", stable until
the byte is written. Free: notes/assumptions/3.md. -/
opaque bufInit : Nat → Byte

/-- 20_memory R77, U4: what a host read of OUTLEN, GF_R, BLK, RK or BUF returns while BUSY = 1, "a draw per
read": the argument is `State.draws`. Free: notes/assumptions/4.md. -/
opaque busyRead : Nat → Word

/-- 00_scope R10: AES_BASE, the base address of the 64 KiB window in the platform's address map. The rules speak
of offsets from it only. Free: notes/assumptions/16.md. -/
opaque aesBase : Nat

end Sys2Proof.Config
end

