-- ==== Sys2Proof/Machine/State.lean ====
section
/-!
DEFINITION. The state of the block as plain data: every register of 10_state R30, the hidden state of R44, BUF,
and the model's own fields for the environment (the coming events, the responses given, the draws used).
-/

namespace Sys2Proof.Machine

/-- BUF as the bytes written since power-up, by rising address (10_state R43). An address not listed holds no
written value and reads as the free byte `Config.bufInit` of that address: `Memory.read`. -/
abbrev Memory := List Host.Cell

/-- 10_state R44: the engine's sequencing state. -/
inductive Phase where
  /-- no command runs -/
  | idle
  /-- START(w): command word w accepted, its first engine step not yet taken -/
  | start (w : Word)
  /-- ECB_ENC(k): about to process block k -/
  | ecbEnc (k : Nat)
  /-- ECB_DEC_VALIDATE -/
  | ecbDecValidate
  /-- ECB_DEC(k): about to write block k -/
  | ecbDec (k : Nat)
deriving DecidableEq, Repr

/-- 60_exceptions R280: the kinds of error, `none` for no error. -/
inductive ErrKind where
  | none
  | invalidKeyLength
  | invalidBlockLength
  | invalidCiphertextLength
  | paddingError
  | illegalCmd
  | noSchedule
  | rangeError
  | aborted
deriving DecidableEq, Repr

/-- 10_state R30: the registers of the host window. `key k`, `blk k`, `rk k` are KEYk, BLKk, RKk. -/
inductive Reg where
  | ctrl
  | status
  | err
  | cmd
  | src
  | dst
  | len
  | outlen
  | blkcnt
  | gfA
  | gfB
  | gfR
  | key (k : Fin 4)
  | blk (k : Fin 4)
  | rk (k : Fin 44)
deriving DecidableEq, Repr

/-- 20_memory R71: what a host access reaches. Addresses are BUF addresses. -/
inductive Target where
  | reg (r : Reg)
  | bufWord (a : Nat)
  | bufByte (a : Nat)
  | busError
deriving DecidableEq, Repr

/-- What the environment does next (00_scope R21; notes/assumptions/1.md). `off` is a byte offset in the host
window and `size` the number of bytes of the access (20_memory R70). -/
inductive Event where
  /-- the engine takes its enabled step, if it has one -/
  | engine
  /-- HostRead(off, size) -/
  | read (off size : Nat)
  /-- HostWrite(off, size, v) -/
  | write (off size : Nat) (v : Word)
  /-- `wait` of 30_encoding R108: read STATUS until BUSY = 0 -/
  | wait
  /-- `if rd NAME == v: body` of 30_encoding R108: `skip` is the number of events of the body -/
  | ifReg (off : Nat) (v : Word) (skip : Nat)
  /-- the reset input is asserted and released (70 R320) -/
  | reset
deriving DecidableEq, Repr

/-- 20_memory R73: the answer to one host access: the value read (zero for a write) and whether it is the error
response. -/
structure Response where
  data : Word
  busError : Bool
deriving DecidableEq, Repr

/-- The state of one block. Registers keep the names of 10_state. -/
structure State where
  /-- the parameter BUF_BYTES of this instance (00_scope R10); no step changes it: notes/assumptions/2.md -/
  bufBytes : Nat
  /-- CTRL.IE (R31) -/
  ie : Bool
  /-- STATUS.DONE (R32) -/
  done : Bool
  /-- STATUS.KS_VALID (R32, R41) -/
  ksValid : Bool
  /-- STATUS.CMD_DROPPED (R32) -/
  cmdDropped : Bool
  /-- abort_req = STATUS.ABORT_PENDING (R44, R52) -/
  abortReq : Bool
  /-- ERR.CODE (R33) -/
  errCode : Byte
  /-- cur_cmd = the value CMD reads (R34, R44) -/
  curCmd : Word
  /-- SRC (R35) -/
  src : Word
  /-- DST (R35) -/
  dst : Word
  /-- LEN (R35) -/
  len : Word
  /-- OUTLEN (R36) -/
  outlen : Word
  /-- BLKCNT (R37) -/
  blkcnt : Word
  /-- GF_A[7:0] (R42) -/
  gfA : Byte
  /-- GF_B[7:0] (R42) -/
  gfB : Byte
  /-- GF_R[7:0] (R42) -/
  gfR : Byte
  /-- KEY (R38) -/
  key : Block
  /-- BLK (R39) -/
  blk : Block
  /-- RK (R40) -/
  rk : RoundKeys
  /-- BUF (R43) -/
  buf : Memory
  /-- phase (R44, R47); STATUS.BUSY is derived from it (R45) -/
  phase : Phase
  /-- n, the block count of the running ECB command (R44) -/
  n : Nat
  /-- padLen, the pad length of the running ECB command (R44) -/
  padLen : Nat
  /-- W, the held plaintext of the final block during ECB_DEC (R44) -/
  w : Block
  /-- the MODEL's own: the environment's coming events, the next one first: notes/assumptions/1.md -/
  events : List Event
  /-- the MODEL's own: the responses the host has received, the newest first: notes/assumptions/6.md -/
  responses : List Response
  /-- the MODEL's own: how many free values of `Config.busyRead` are used up: notes/assumptions/4.md -/
  draws : Nat
deriving DecidableEq, Repr

/-- Why the model stops where no rule of the spec gives a step. Neither is raised in a state that meets
`State.Inv`, which every step keeps: notes/assumptions/8.md. -/
inductive Fault where
  /-- Raised by an engine step of ECB_ENC or ECB_DEC that would form a BUF address outside 0..BUF_BYTES-1, which
  20_memory R78 says the engine never does. Safe. -/
  | bufAddress (addr : Nat)
  /-- Raised by an engine step whose hidden state has no rule: block index k ≥ n, n = 0 at validation, or a pad
  length for which the final block's rule subtracts below zero (44 R222, R226..R228). Safe. -/
  | sequencerState
deriving DecidableEq, Repr

/-- Why the model gives no meaning. -/
inductive Refusal where
  /-- Raised by `exec` for a constructor of `Instr` that has no meaning yet. Safe. No arm uses it. -/
  | notModelled (mnemonic : String)
deriving DecidableEq, Repr

/-- 10_state R50, 70 R320: the state after reset and power-up. BUF lists nothing (its contents are BUF_INIT);
BUF_BYTES has the reference value (notes/assumptions/2.md); the environment's fields are empty
(notes/assumptions/25.md). -/
def State.reset : State where
  bufBytes := Config.referenceBufBytes
  ie := false
  done := false
  ksValid := false
  cmdDropped := false
  abortReq := false
  errCode := 0x00
  curCmd := 0x00000000
  src := 0
  dst := 0
  len := 0
  outlen := 0
  blkcnt := 0
  gfA := 0x00
  gfB := 0x00
  gfR := 0x00
  key := .zero
  blk := .zero
  rk := .zero
  buf := []
  phase := .idle
  n := 0
  padLen := 0
  w := .zero
  events := []
  responses := []
  draws := 0

end Sys2Proof.Machine
end

