-- ==== Sys2Proof/Machine/Flags.lean ====
section
/-!
DEFINITION. The flags: the numeric error codes (60 R280), BUSY (10_state R45), the words STATUS, ERR and CTRL as the
host reads them (10_state R31..R33), and the interrupt output (60 R290).
-/

namespace Sys2Proof.Machine

/-- 60_exceptions R280: ERR.CODE of each kind. -/
def ErrKind.code : ErrKind → Byte
  | .none => 0x00
  | .invalidKeyLength => 0x01
  | .invalidBlockLength => 0x02
  | .invalidCiphertextLength => 0x03
  | .paddingError => 0x04
  | .illegalCmd => 0x05
  | .noSchedule => 0x06
  | .rangeError => 0x07
  | .aborted => 0x08

/-- 10_state R45: "STATUS.BUSY = 1 exactly when phase ≠ IDLE". -/
def State.busy (s : State) : Bool := decide (s.phase ≠ .idle)

/-- 60_exceptions R290: `IRQ = CTRL.IE & STATUS.DONE`. -/
def State.irq (s : State) : Bool := s.ie && s.done

/-- A flag placed at bit `i` of a register word, the other bits zero. -/
def flagBit (b : Bool) (i : Nat) : Word := (BitVec.ofBool b).setWidth 32 <<< i

/-- 10_state R32: STATUS as a host read returns it: BUSY, DONE, KS_VALID, CMD_DROPPED, ABORT_PENDING in bits 0..4,
reserved bits zero. -/
def State.statusWord (s : State) : Word :=
  flagBit s.busy 0 ||| flagBit s.done 1 ||| flagBit s.ksValid 2 ||| flagBit s.cmdDropped 3
    ||| flagBit s.abortReq 4

/-- 10_state R33: ERR as a host read returns it. -/
def State.errWord (s : State) : Word := s.errCode.setWidth 32

/-- 10_state R31: CTRL as a host read returns it: IE in bit 0; ABORT and the reserved bits read 0. -/
def State.ctrlWord (s : State) : Word := flagBit s.ie 0

/-- 44 R230: whether the running command is one an abort request reaches: "STATUS.BUSY = 1 and cur_cmd[7:0] is 0x04
(ECB_ENC) or 0x05 (ECB_DEC)". Taken literally: notes/assumptions/11.md. -/
def State.abortable (s : State) : Bool :=
  s.busy && (opField s.curCmd == 0x04 || opField s.curCmd == 0x05)

end Sys2Proof.Machine
end

