-- ==== Sys2Proof/Machine/Operands.lean ====
section
/-!
DEFINITION. How operands are addressed: bytes and matrix entries of a block (00_scope R13, R14), round keys by index
(R13, 30_encoding R101), the byte lanes of a host word (20_memory R72), the register map (10_state R30) and what a
host access reaches (20_memory R71, R75).
-/

namespace Sys2Proof

/-- The byte of a column in row `r`. -/
def Col.row (c : Col) (r : Fin 4) : Byte :=
  match r with
  | 0 => c.r0
  | 1 => c.r1
  | 2 => c.r2
  | 3 => c.r3

/-- A column given by its rows. -/
def Col.ofRows (f : Fin 4 → Byte) : Col := ⟨f 0, f 1, f 2, f 3⟩

/-- The bytes of a column, row 0 first. -/
def Col.toList (c : Col) : List Byte := [c.r0, c.r1, c.r2, c.r3]

/-- 00_scope R14: column `c` of a block. -/
def Block.col (b : Block) (c : Fin 4) : Col :=
  match c with
  | 0 => b.c0
  | 1 => b.c1
  | 2 => b.c2
  | 3 => b.c3

/-- A block given by its columns. -/
def Block.ofCols (f : Fin 4 → Col) : Block := ⟨f 0, f 1, f 2, f 3⟩

/-- A block with one column replaced. -/
def Block.setCol (b : Block) (c : Fin 4) (x : Col) : Block :=
  match c with
  | 0 => { b with c0 := x }
  | 1 => { b with c1 := x }
  | 2 => { b with c2 := x }
  | 3 => { b with c3 := x }

/-- 00_scope R14: the state view `s[row][col]`. -/
def Block.entry (b : Block) (row col : Fin 4) : Byte := (b.col col).row row

/-- A block given by its state view. -/
def Block.ofMatrix (f : Fin 4 → Fin 4 → Byte) : Block := .ofCols fun c => .ofRows fun r => f r c

/-- 00_scope R13, R14: byte i of a block is the entry of row `i mod 4` and column `i div 4`. -/
def Block.byte (b : Block) (i : Fin 16) : Byte :=
  b.entry ⟨i.val % 4, Nat.mod_lt _ (by decide)⟩ ⟨i.val / 4, by omega⟩

/-- A block given by its sixteen bytes in linear order. -/
def Block.ofBytes (f : Fin 16 → Byte) : Block :=
  ⟨⟨f 0, f 1, f 2, f 3⟩, ⟨f 4, f 5, f 6, f 7⟩, ⟨f 8, f 9, f 10, f 11⟩, ⟨f 12, f 13, f 14, f 15⟩⟩

/-- The sixteen bytes of a block, byte 0 first. -/
def Block.toList (b : Block) : List Byte := b.c0.toList ++ b.c1.toList ++ b.c2.toList ++ b.c3.toList

/-- 00_scope R13: `RK[r]`, r = 0..10. -/
def RoundKeys.get (k : RoundKeys) (r : Fin 11) : Block :=
  match r with
  | 0 => k.k0
  | 1 => k.k1
  | 2 => k.k2
  | 3 => k.k3
  | 4 => k.k4
  | 5 => k.k5
  | 6 => k.k6
  | 7 => k.k7
  | 8 => k.k8
  | 9 => k.k9
  | 10 => k.k10

/-- 30_encoding R101: RIDX as the index r of `RK[r]`, zero-extended; none for 11..15, which R103 makes illegal. -/
def RoundKeys.select (k : RoundKeys) (ridx : BitVec 4) : Option Block :=
  if h : ridx.toNat < 11 then some (k.get ⟨ridx.toNat, h⟩) else none

end Sys2Proof

namespace Sys2Proof.Machine

/-- 20_memory R72: four bytes as a host word, the byte at the lowest offset in bits [7:0]. -/
def packLanes (c : Col) : Word := c.r3 ++ c.r2 ++ c.r1 ++ c.r0

/-- 20_memory R72: byte j of a host word is bits [8j+7:8j]. -/
def lane (v : Word) (j : Fin 4) : Byte := v.extractLsb' (8 * j.val) 8

/-- 20_memory R72: the four bytes of a host word. -/
def unpackLanes (v : Word) : Col := .ofRows (lane v)

/-- 10_state R30: the byte offset of a register in the host window. -/
def Reg.offset : Reg → Nat
  | .ctrl => 0x0000
  | .status => 0x0004
  | .err => 0x0008
  | .cmd => 0x000C
  | .src => 0x0010
  | .dst => 0x0014
  | .len => 0x0018
  | .outlen => 0x001C
  | .blkcnt => 0x0020
  | .gfA => 0x0024
  | .gfB => 0x0028
  | .gfR => 0x002C
  | .key k => 0x0040 + 4 * k.val
  | .blk k => 0x0050 + 4 * k.val
  | .rk k => 0x0100 + 4 * k.val

/-- 10_state R30: the registers at offsets 0x0000..0x002C, in order. -/
def controlRegs : List Reg :=
  [.ctrl, .status, .err, .cmd, .src, .dst, .len, .outlen, .blkcnt, .gfA, .gfB, .gfR]

/-- 10_state R30, 20_memory R75: the register at a byte offset, none for an offset that is not a multiple of 4 or
lies in no register range. -/
def Reg.ofOffset (off : Nat) : Option Reg :=
  if off % 4 ≠ 0 then none
  else if off < 0x0030 then controlRegs[off / 4]?
  else if 0x0040 ≤ off ∧ off < 0x0050 then some (.key (Fin.ofNat 4 ((off - 0x0040) / 4)))
  else if 0x0050 ≤ off ∧ off < 0x0060 then some (.blk (Fin.ofNat 4 ((off - 0x0050) / 4)))
  else if 0x0100 ≤ off ∧ off < 0x01B0 then some (.rk (Fin.ofNat 44 ((off - 0x0100) / 4)))
  else none

/-- 20_memory R70: the offset of BUF in the host window. -/
def bufOffset : Nat := 0x1000

/-- 20_memory R71: what a host access of `size` bytes at offset `off` reaches. "Every other access ... is a bus
error"; an offset past the window is one too (notes/assumptions/10.md). -/
def target (bufBytes off size : Nat) : Target :=
  if size = 4 then
    match Reg.ofOffset off with
    | some r => .reg r
    | none =>
      if off % 4 = 0 ∧ bufOffset ≤ off ∧ off + 4 ≤ bufOffset + bufBytes then .bufWord (off - bufOffset)
      else .busError
  else if size = 1 then
    if bufOffset ≤ off ∧ off < bufOffset + bufBytes then .bufByte (off - bufOffset) else .busError
  else .busError

/-- 00_scope R10, 20_memory R70: the platform address of a host window offset. The block sees the offset only
(notes/assumptions/16.md). -/
def platformAddress (off : Nat) : Nat := Config.aesBase + off

end Sys2Proof.Machine
end

