-- ==== Sys2Proof/Machine/Ops.lean ====
section
/-!
DEFINITION. The named operations every meaning is written over: reading and writing BUF (20_memory R78), a command's
acceptance (45 R261), its completion (R263), raising an error (00_scope R16, 60 R287) and the host's acknowledgement
(60 R288).
-/

namespace Sys2Proof.Machine

/-- One step's outcome. -/
abbrev Result := Host.Outcome State Fault Refusal

/-- The value written at an address, none where nothing has been written since power-up. -/
def Memory.find : Memory → Nat → Option Byte
  | [], _ => none
  | (k, x) :: m, a => if a = k then some x else Memory.find m a

/-- `BUF[a]`. 10_state R43: "a model treats each unwritten byte as a draw (any value)", one per byte (U6):
notes/assumptions/3.md. -/
def Memory.read (m : Memory) (a : Nat) : Byte := (m.find a).getD (Config.bufInit a)

/-- `BUF[a] <- x`, keeping the addresses rising. -/
def Memory.write : Memory → Nat → Byte → Memory
  | [], a, x => [(a, x)]
  | (k, y) :: m, a, x =>
    if a < k then (a, x) :: (k, y) :: m
    else if a = k then (a, x) :: m
    else (k, y) :: Memory.write m a x

/-- 20_memory R78: `BUF[a+j] <- v[j]` in increasing j. -/
def Memory.writeBytes (m : Memory) (a : Nat) : List Byte → Memory
  | [] => m
  | x :: xs => Memory.writeBytes (m.write a x) (a + 1) xs

/-- 20_memory R78: `BUF[a], ..., BUF[a+n-1]`. -/
def Memory.readBytes (m : Memory) (a : Nat) : Nat → List Byte
  | 0 => []
  | n + 1 => m.read a :: Memory.readBytes m (a + 1) n

/-- 20_memory R79: the block at consecutive addresses, byte 0 at the lowest. -/
def Memory.readBlock (m : Memory) (a : Nat) : Block := .ofBytes fun i => m.read (a + i.val)

/-- The canonical form: addresses strictly rising. An unlisted address holds no written value, so no entry can
equal what it holds: notes/assumptions/3.md. -/
def Memory.wf : Memory → Bool
  | [] => true
  | [_] => true
  | (a, _) :: (b, y) :: m => decide (a < b) && Memory.wf ((b, y) :: m)

/-- Every listed address lies in 0..limit-1 (10_state R43). -/
def Memory.inside (m : Memory) (limit : Nat) : Bool := m.all fun c => decide (c.1 < limit)

/-- Whether the engine access to `n` bytes at `a` forms only addresses in 0..BUF_BYTES-1 (20_memory R78). An access
to no byte forms none. -/
def State.bufHolds (s : State) (a n : Nat) : Bool := decide (n = 0) || decide (a + n ≤ s.bufBytes)

/-- 45_control R263, 60_exceptions R287: completion with the code of `e`, the last action of the step that ends a
command. With a nonzero code it is error entry: it "saves nothing beyond ERR.CODE, changes no mode and no mask, and
transfers no control". -/
def finish (e : ErrKind) (s : State) : State :=
  { s with errCode := e.code, abortReq := false, phase := .idle, done := true }

/-- 00_scope R16: `complete()`. -/
def complete (s : State) : Result := .next (finish .none s)

/-- 00_scope R16: `raise <Error>()`. -/
def raise (e : ErrKind) (s : State) : Result := .next (finish e s)

/-- 60_exceptions R288: there is no return instruction; the host "clears DONE by writing 1 to STATUS bit 1". Nothing
is restored. -/
def acknowledge (s : State) : State := { s with done := false }

/-- 45_control R261: acceptance of the command word `w`. -/
def accept (w : Word) (s : State) : State :=
  { s with
    curCmd := w, done := false, errCode := 0x00, outlen := 0, blkcnt := 0, abortReq := false, phase := .start w }

end Sys2Proof.Machine
end

