-- ==== Sys2Proof/Machine/Control.lean ====
section
/-!
DEFINITION. NOP (45_control R266).
-/

namespace Sys2Proof.Machine

/-- 45 R266: NOP: `complete()`. -/
def execNop (s : State) : Result := complete s

end Sys2Proof.Machine
end

