-- ==== Sys2Proof/Machine/Key.lean ====
section
/-!
DEFINITION. The key schedule (file 42) and EXPAND_KEY (R181).
-/

namespace Sys2Proof.Machine

/-- 42 R180: "rotate it up by one byte": `(t[1], t[2], t[3], t[0])`. -/
def rotUp (t : Col) : Col := ⟨t.r1, t.r2, t.r3, t.r0⟩

/-- 42 R180: each byte through S. -/
def subCol (t : Col) : Col := ⟨sbox t.r0, sbox t.r1, sbox t.r2, sbox t.r3⟩

/-- 42 R180: the transformed last column: rotated, substituted, the first byte XORed with the round constant. -/
def scheduleWord (t : Col) (rc : Byte) : Col := (subCol (rotUp t)).xor ⟨rc, 0, 0, 0⟩

/-- 42 R180: RK[r] from RK[r-1] and Rcon[r]. -/
def nextRoundKey (prev : Block) (rc : Byte) : Block :=
  let d0 := prev.c0.xor (scheduleWord prev.c3 rc)
  let d1 := d0.xor prev.c1
  let d2 := d1.xor prev.c2
  let d3 := d2.xor prev.c3
  ⟨d0, d1, d2, d3⟩

/-- 42 R180: `KeyExpand(key)`. -/
def keyExpand (key : Block) : RoundKeys :=
  let k1 := nextRoundKey key (rcon 0)
  let k2 := nextRoundKey k1 (rcon 1)
  let k3 := nextRoundKey k2 (rcon 2)
  let k4 := nextRoundKey k3 (rcon 3)
  let k5 := nextRoundKey k4 (rcon 4)
  let k6 := nextRoundKey k5 (rcon 5)
  let k7 := nextRoundKey k6 (rcon 6)
  let k8 := nextRoundKey k7 (rcon 7)
  let k9 := nextRoundKey k8 (rcon 8)
  let k10 := nextRoundKey k9 (rcon 9)
  ⟨key, k1, k2, k3, k4, k5, k6, k7, k8, k9, k10⟩

/-- 42 R180: "Writing the result into the round-key file writes all 176 bytes of RK and sets STATUS.KS_VALID <- 1, in the
same atomic step." -/
def loadSchedule (s : State) : State := { s with rk := keyExpand s.key, ksValid := true }

/-- 42 R181: EXPAND_KEY. -/
def execExpandKey (s : State) : Result := complete (loadSchedule s)

end Sys2Proof.Machine
end

