-- ==== Sys2Proof/Machine/Round.lean ====
section
/-!
DEFINITION. The round transforms and the seven commands that apply one to BLK (file 41).
-/

namespace Sys2Proof.Machine

/-- 41 R151: SubBytes: `S[b[i]]` for each byte. -/
def subBytes (b : Block) : Block := .ofMatrix fun r c => sbox (b.entry r c)

/-- 41 R152: InvSubBytes: `Sinv[b[i]]` for each byte. -/
def invSubBytes (b : Block) : Block := .ofMatrix fun r c => invSbox (b.entry r c)

/-- 41 R154: ShiftRows: `s'[r][c] = s[r][(c + r) mod 4]`; the sum is in `Fin 4`. -/
def shiftRows (b : Block) : Block := .ofMatrix fun r c => b.entry r (c + r)

/-- 41 R155: InvShiftRows: `s'[r][c] = s[r][(c - r) mod 4]`; the difference is in `Fin 4`. -/
def invShiftRows (b : Block) : Block := .ofMatrix fun r c => b.entry r (c - r)

/-- 41 R158, R159: a column multiplied by the circulant matrix whose first row is (k0, k1, k2, k3). -/
def circulant (k0 k1 k2 k3 : Byte) (x : Col) : Col where
  r0 := gmul k0 x.r0 ^^^ gmul k1 x.r1 ^^^ gmul k2 x.r2 ^^^ gmul k3 x.r3
  r1 := gmul k3 x.r0 ^^^ gmul k0 x.r1 ^^^ gmul k1 x.r2 ^^^ gmul k2 x.r3
  r2 := gmul k2 x.r0 ^^^ gmul k3 x.r1 ^^^ gmul k0 x.r2 ^^^ gmul k1 x.r3
  r3 := gmul k1 x.r0 ^^^ gmul k2 x.r1 ^^^ gmul k3 x.r2 ^^^ gmul k0 x.r3

/-- 41 R158: one column of MixColumns, coefficients {2,3,1,1}; the coefficient 1 is written as no product. -/
def mixColumn (x : Col) : Col where
  r0 := gmul 2 x.r0 ^^^ gmul 3 x.r1 ^^^ x.r2 ^^^ x.r3
  r1 := x.r0 ^^^ gmul 2 x.r1 ^^^ gmul 3 x.r2 ^^^ x.r3
  r2 := x.r0 ^^^ x.r1 ^^^ gmul 2 x.r2 ^^^ gmul 3 x.r3
  r3 := gmul 3 x.r0 ^^^ x.r1 ^^^ x.r2 ^^^ gmul 2 x.r3

/-- 41 R159: one column of InvMixColumns, coefficients {14,11,13,9}. -/
def invMixColumn (x : Col) : Col := circulant 14 11 13 9 x

/-- 41 R158: MixColumns. -/
def mixColumns (b : Block) : Block := .ofCols fun c => mixColumn (b.col c)

/-- 41 R159: InvMixColumns. -/
def invMixColumns (b : Block) : Block := .ofCols fun c => invMixColumn (b.col c)

/-- 41 R161: AddRoundKey: `b[i] ^ k[i]` for each byte. -/
def addRoundKey (b k : Block) : Block := b.xor k

/-- 41 R150: BLK is read whole, `BLK <- f(BLK)`, and the command completes. -/
def transformBlk (f : Block → Block) (s : State) : Result := complete { s with blk := f s.blk }

/-- 41 R151: SUB_BYTES. -/
def execSubBytes (s : State) : Result := transformBlk subBytes s

/-- 41 R152: INV_SUB_BYTES. -/
def execInvSubBytes (s : State) : Result := transformBlk invSubBytes s

/-- 41 R154: SHIFT_ROWS. -/
def execShiftRows (s : State) : Result := transformBlk shiftRows s

/-- 41 R155: INV_SHIFT_ROWS. -/
def execInvShiftRows (s : State) : Result := transformBlk invShiftRows s

/-- 41 R158: MIX_COLUMNS. -/
def execMixColumns (s : State) : Result := transformBlk mixColumns s

/-- 41 R159: INV_MIX_COLUMNS. -/
def execInvMixColumns (s : State) : Result := transformBlk invMixColumns s

/-- 41 R161: ADD_ROUND_KEY r. A round index above 10 is ILLEGAL_CMD "before execution" (30_encoding R103); the decoder
never yields one: notes/assumptions/12.md. -/
def execAddRoundKey (ridx : BitVec 4) (s : State) : Result :=
  match s.rk.select ridx with
  | none => raise .illegalCmd s
  | some k => if s.ksValid then transformBlk (addRoundKey · k) s else raise .noSchedule s

end Sys2Proof.Machine
end

