-- ==== Sys2Proof/Machine/Cipher.lean ====
section
/-!
DEFINITION. The block cipher (file 43), ENC_BLOCK (R196) and DEC_BLOCK (R198).
-/

namespace Sys2Proof.Machine

/-- 43 R195: rounds 1..9: SubBytes, ShiftRows, MixColumns, AddRoundKey. -/
def cipherRound (s k : Block) : Block := addRoundKey (mixColumns (shiftRows (subBytes s))) k

/-- 43 R195: round 10, which "omits MixColumns". -/
def cipherLast (s k : Block) : Block := addRoundKey (shiftRows (subBytes s)) k

/-- 43 R195: `Cipher(b, RK)`. -/
def cipher (b : Block) (rk : RoundKeys) : Block :=
  cipherLast ([rk.k1, rk.k2, rk.k3, rk.k4, rk.k5, rk.k6, rk.k7, rk.k8, rk.k9].foldl cipherRound
    (addRoundKey b rk.k0)) rk.k10

/-- 43 R197: the first inverse round: AddRoundKey, InvShiftRows, InvSubBytes. -/
def invCipherFirst (s k : Block) : Block := invSubBytes (invShiftRows (addRoundKey s k))

/-- 43 R197: rounds 9 down to 1: AddRoundKey, InvMixColumns, InvShiftRows, InvSubBytes. -/
def invCipherRound (s k : Block) : Block := invSubBytes (invShiftRows (invMixColumns (addRoundKey s k)))

/-- 43 R197: `InvCipher(b, RK)`. -/
def invCipher (b : Block) (rk : RoundKeys) : Block :=
  addRoundKey ([rk.k9, rk.k8, rk.k7, rk.k6, rk.k5, rk.k4, rk.k3, rk.k2, rk.k1].foldl invCipherRound
    (invCipherFirst b rk.k10)) rk.k0

/-- 43 R196, R198: a block command needs a valid schedule. -/
def cryptBlk (f : Block → RoundKeys → Block) (s : State) : Result :=
  if s.ksValid then complete { s with blk := f s.blk s.rk } else raise .noSchedule s

/-- 43 R196: ENC_BLOCK. -/
def execEncBlock (s : State) : Result := cryptBlk cipher s

/-- 43 R198: DEC_BLOCK. -/
def execDecBlock (s : State) : Result := cryptBlk invCipher s

end Sys2Proof.Machine
end

