-- ==== Sys2Proof/Machine/Ecb.lean ====
section
/-!
DEFINITION. ECB mode with PKCS#7 padding (file 44): the functions the sequencer computes (section 1), and the
sequencer's steps (sections 2 to 4).
-/

namespace Sys2Proof.Machine

/-- 44 R215: `padLen = 16 - (L mod 16)`. -/
def padLength (len : Nat) : Nat := 16 - len % 16

/-- 44 R215: `Pad(p) = p ++ [padLen] * padLen`. -/
def pad (p : List Byte) : List Byte :=
  p ++ List.replicate (padLength p.length) (BitVec.ofNat 8 (padLength p.length))

/-- The 16 bytes `q[16k .. 16k+15]`; used for blocks that lie inside `q`, where the default is never taken. -/
def blockAt (q : List Byte) (k : Nat) : Block := .ofBytes fun i => q.getD (16 * k + i.val) 0

/-- The blocks of `q`, each through `f`, concatenated. -/
def mapBlocks (f : Block → Block) (q : List Byte) : List Byte :=
  (List.range (q.length / 16)).flatMap fun k => (f (blockAt q k)).toList

/-- 44 R216: `EncryptECB(p, key)`. -/
def encryptEcb (p : List Byte) (key : Block) : List Byte := mapBlocks (cipher · (keyExpand key)) (pad p)

/-- 44 R217: `DecryptECB(c, key)`. -/
def decryptEcb (c : List Byte) (key : Block) : Except ErrKind (List Byte) :=
  if c.length % 16 ≠ 0 then .error .invalidCiphertextLength
  else if c.length = 0 then .error .paddingError
  else
    let q := mapBlocks (invCipher · (keyExpand key)) c
    let padLen := (q.getD (c.length - 1) 0).toNat
    if padLen < 1 ∨ padLen > 16 ∨ padLen > c.length then .error .paddingError
    else .ok (q.take (c.length - padLen))

/-- 44 R221: the setup step of ECB_ENC. The checks are on unbounded integers, before RK, KS_VALID or BUF is written.
n and padLen are assigned before them: notes/assumptions/13.md. -/
def execEcbEnc (s : State) : Result :=
  let n := s.len.toNat / 16 + 1
  let s1 := { s with n := n, padLen := padLength s.len.toNat }
  if s.src.toNat + s.len.toNat > s.bufBytes then raise .rangeError s1
  else if s.dst.toNat + 16 * n > s.bufBytes then raise .rangeError s1
  else .next { loadSchedule s1 with phase := .ecbEnc 0 }

/-- 44 R225: the setup step of ECB_DEC. -/
def execEcbDec (s : State) : Result :=
  if s.len.toNat % 16 ≠ 0 then raise .invalidCiphertextLength s
  else if s.src.toNat + s.len.toNat > s.bufBytes then raise .rangeError s
  else if s.len.toNat = 0 then raise .paddingError s
  else .next { loadSchedule { s with n := s.len.toNat / 16 } with phase := .ecbDecValidate }

/-- 44 R222: the number of bytes block step k of ECB_ENC reads: 16, or L mod 16 for the final block. -/
def encInputBytes (s : State) (k : Nat) : Nat := if k + 1 < s.n then 16 else s.len.toNat % 16

/-- 44 R222: the plaintext block of block step k: the bytes read from BUF, then padLen in every byte after them. -/
def encInputBlock (s : State) (k : Nat) : Block :=
  .ofBytes fun i =>
    if i.val < encInputBytes s k then s.buf.read (s.src.toNat + 16 * k + i.val) else BitVec.ofNat 8 s.padLen

/-- 44 R222: block steps have 0 ≤ k ≤ n-1, and the final block's bytes and pad bytes make 16. -/
def encStepHasRule (s : State) (k : Nat) : Bool :=
  decide (k < s.n) && (decide (k + 1 < s.n) || decide (s.len.toNat % 16 + s.padLen = 16))

/-- 44 R222: the writes of block step k: the ciphertext block at DST + 16k, and BLKCNT. -/
def encWrite (s : State) (k : Nat) : State :=
  { s with
    buf := s.buf.writeBytes (s.dst.toNat + 16 * k) (cipher (encInputBlock s k) s.rk).toList
    blkcnt := s.blkcnt + 1 }

/-- 44 R222: ECB_ENC block step k, after the block-boundary check. -/
def ecbEncBlock (k : Nat) (s : State) : Result :=
  if !encStepHasRule s k then .fault .sequencerState
  else if !s.bufHolds (s.src.toNat + 16 * k) (encInputBytes s k) then .fault (.bufAddress (s.src.toNat + 16 * k))
  else if !s.bufHolds (s.dst.toNat + 16 * k) 16 then .fault (.bufAddress (s.dst.toNat + 16 * k))
  else if k + 1 = s.n then complete { encWrite s k with outlen := BitVec.ofNat 32 (16 * s.n) }
  else .next { encWrite s k with phase := .ecbEnc (k + 1) }

/-- 44 R226: ECB_DEC validation step, after the block-boundary check. W and padLen are assigned before the checks:
notes/assumptions/13.md. -/
def ecbDecValidate (s : State) : Result :=
  if s.n = 0 then .fault .sequencerState
  else if !s.bufHolds (s.src.toNat + 16 * (s.n - 1)) 16 then .fault (.bufAddress (s.src.toNat + 16 * (s.n - 1)))
  else
    let w := invCipher (s.buf.readBlock (s.src.toNat + 16 * (s.n - 1))) s.rk
    let padLen := (w.byte 15).toNat
    let s1 := { s with w := w, padLen := padLen }
    if padLen < 1 ∨ padLen > 16 ∨ padLen > s.len.toNat then raise .paddingError s1
    else if s.dst.toNat + (s.len.toNat - padLen) > s.bufBytes then raise .rangeError s1
    else .next { s1 with phase := .ecbDec 0 }

/-- 44 R227: ECB_DEC block step k, 0 ≤ k ≤ n-2, after the block-boundary check. -/
def ecbDecCopy (k : Nat) (s : State) : Result :=
  if !s.bufHolds (s.src.toNat + 16 * k) 16 then .fault (.bufAddress (s.src.toNat + 16 * k))
  else if !s.bufHolds (s.dst.toNat + 16 * k) 16 then .fault (.bufAddress (s.dst.toNat + 16 * k))
  else .next { s with
    buf := s.buf.writeBytes (s.dst.toNat + 16 * k)
      (invCipher (s.buf.readBlock (s.src.toNat + 16 * k)) s.rk).toList
    blkcnt := s.blkcnt + 1
    phase := .ecbDec (k + 1) }

/-- 44 R228: ECB_DEC final step: `W[0..m-1]` with m = 16 - padLen at DST + 16(n-1), "without reading BUF again". -/
def ecbDecFinal (s : State) : Result :=
  let a := s.dst.toNat + 16 * (s.n - 1)
  let m := 16 - s.padLen
  if s.padLen > 16 ∨ s.padLen > s.len.toNat then .fault .sequencerState
  else if !s.bufHolds a m then .fault (.bufAddress a)
  else complete { s with
    buf := s.buf.writeBytes a (s.w.toList.take m)
    blkcnt := s.blkcnt + 1
    outlen := BitVec.ofNat 32 (s.len.toNat - s.padLen) }

/-- 44 R227, R228: ECB_DEC(k): a block step for k ≤ n-2, the final step for k = n-1. -/
def ecbDecBlock (k : Nat) (s : State) : Result :=
  if k + 1 < s.n then ecbDecCopy k s
  else if k + 1 = s.n then ecbDecFinal s
  else .fault .sequencerState

/-- 44 R231: at a block boundary, "before the next step is taken, the engine checks abort_req". -/
def atBoundary (blockStep : State → Result) (s : State) : Result :=
  if s.abortReq then raise .aborted s else blockStep s

end Sys2Proof.Machine
end

