-- ==== Sys2Proof/Machine/Engine.lean ====
section
/-!
DEFINITION. One engine step (00_scope R21; 45_control R264, R265, R268; 44 R231).
-/

namespace Sys2Proof.Machine

/-- 45 R264, R265: the first engine step of an accepted word: the command it stands for, or ILLEGAL_CMD "and no other
effect". -/
def firstStep (w : Word) (s : State) : Result :=
  match decode w with
  | .error _ => raise .illegalCmd s
  | .ok i => exec i s

/-- The engine's enabled step. 45 R268: "When phase = IDLE the engine has no step": the state stays as it is. -/
def engineStep (s : State) : Result :=
  match s.phase with
  | .idle => .next s
  | .start w => firstStep w s
  | .ecbEnc k => atBoundary (ecbEncBlock k) s
  | .ecbDecValidate => atBoundary ecbDecValidate s
  | .ecbDec k => atBoundary (ecbDecBlock k) s

end Sys2Proof.Machine
end

