-- ==== Sys2Proof/Machine/HostPort.lean ====
section
/-!
DEFINITION. The host port: HostRead and HostWrite (20_memory R70..R77), their side effects (R76, 45 R261, R262, 44 R230)
and the reset input (70 R320, R321).
-/

namespace Sys2Proof.Machine

/-- Column c of the round-key file counted over all eleven keys: RKk of 10_state R40 is column `k mod 4` of `RK[k div 4]`. -/
def rkColumn (k : RoundKeys) (c : Fin 44) : Col :=
  (k.get ⟨c.val / 4, by omega⟩).col ⟨c.val % 4, Nat.mod_lt _ (by decide)⟩

/-- 10_state R31..R42, 20_memory R72, R74: the value of a register; reserved bits are zero. -/
def readReg (r : Reg) (s : State) : Word :=
  match r with
  | .ctrl => s.ctrlWord
  | .status => s.statusWord
  | .err => s.errWord
  | .cmd => s.curCmd
  | .src => s.src
  | .dst => s.dst
  | .len => s.len
  | .outlen => s.outlen
  | .blkcnt => s.blkcnt
  | .gfA => s.gfA.setWidth 32
  | .gfB => s.gfB.setWidth 32
  | .gfR => s.gfR.setWidth 32
  | .key k => packLanes (s.key.col k)
  | .blk k => packLanes (s.blk.col k)
  | .rk k => packLanes (rkColumn s.rk k)

/-- 20_memory R72: the word at four BUF addresses. -/
def readBufWord (m : Memory) (a : Nat) : Word := packLanes (.ofRows fun j => m.read (a + j.val))

/-- The value at what an access reaches; a bus error "returns 0x00000000 (or 0x00)" (20_memory R73). -/
def readTarget (t : Target) (s : State) : Word :=
  match t with
  | .reg r => readReg r s
  | .bufWord a => readBufWord s.buf a
  | .bufByte a => (s.buf.read a).setWidth 32
  | .busError => 0

/-- 20_memory R77: what a host read returns "an unspecified value" for while BUSY = 1: OUTLEN, GF_R, BLK, RK, BUF.
GF_A and GF_B stand in neither list of the rule and keep their value: notes/assumptions/5.md. -/
def unspecifiedWhileBusy : Target → Bool
  | .reg .outlen => true
  | .reg .gfR => true
  | .reg (.blk _) => true
  | .reg (.rk _) => true
  | .bufWord _ => true
  | .bufByte _ => true
  | .reg .ctrl | .reg .status | .reg .err | .reg .cmd | .reg .src | .reg .dst | .reg .len | .reg .blkcnt
  | .reg .gfA | .reg .gfB | .reg (.key _) | .busError => false

/-- The free value of a read of `t` (notes/assumptions/4.md): a whole word, or one byte for a 1-byte access. -/
def busyValue (t : Target) (draw : Nat) : Word :=
  match t with
  | .bufByte _ => (Config.busyRead draw) &&& 0xFF
  | .reg _ | .bufWord _ | .busError => Config.busyRead draw

/-- 20_memory R70, R71, R73, R76, R77: HostRead(off, size): the response, and the state, which a read leaves as it is
but for the count of free values. -/
def hostRead (off size : Nat) (s : State) : Response × State :=
  match target s.bufBytes off size with
  | .busError => (⟨0, true⟩, s)
  | t =>
    if s.busy && unspecifiedWhileBusy t then (⟨busyValue t s.draws, false⟩, { s with draws := s.draws + 1 })
    else (⟨readTarget t s, false⟩, s)

/-- 10_state R31, 44 R230: a write to CTRL, accepted whether or not BUSY is 1. -/
def writeCtrl (v : Word) (s : State) : State :=
  { s with ie := v.getLsbD 0, abortReq := s.abortReq || (v.getLsbD 1 && s.abortable) }

/-- 10_state R32: a write to STATUS: DONE and CMD_DROPPED are write-1-to-clear, the other bits ignore writes. -/
def writeStatus (v : Word) (s : State) : State :=
  let s1 := if v.getLsbD 1 then acknowledge s else s
  if v.getLsbD 3 then { s1 with cmdDropped := false } else s1

/-- 45 R261, R262: a write to CMD: acceptance while idle; while BUSY = 1 it sets CMD_DROPPED "and changes nothing
else". -/
def writeCmd (v : Word) (s : State) : State :=
  if s.busy then { s with cmdDropped := true } else accept v s

/-- 20_memory R77: a write to an operand, ignored while BUSY = 1. -/
def whenIdle (f : State → State) (s : State) : State := if s.busy then s else f s

/-- 10_state R30..R42, 20_memory R74, R77: a write to a register. Read-only registers ignore it. -/
def writeReg (r : Reg) (v : Word) (s : State) : State :=
  match r with
  | .ctrl => writeCtrl v s
  | .status => writeStatus v s
  | .err => s
  | .cmd => writeCmd v s
  | .src => whenIdle (fun s => { s with src := v }) s
  | .dst => whenIdle (fun s => { s with dst := v }) s
  | .len => whenIdle (fun s => { s with len := v }) s
  | .outlen => s
  | .blkcnt => s
  | .gfA => whenIdle (fun s => { s with gfA := v.setWidth 8 }) s
  | .gfB => whenIdle (fun s => { s with gfB := v.setWidth 8 }) s
  | .gfR => s
  | .key k => whenIdle (fun s => { s with key := s.key.setCol k (unpackLanes v) }) s
  | .blk k => whenIdle (fun s => { s with blk := s.blk.setCol k (unpackLanes v) }) s
  | .rk _ => s

/-- 20_memory R70, R71, R73, R77: HostWrite(off, size, v). A 1-byte access writes bits [7:0] of `v`
(notes/assumptions/20.md); the response to a write carries no data (notes/assumptions/21.md). -/
def hostWrite (off size : Nat) (v : Word) (s : State) : Response × State :=
  match target s.bufBytes off size with
  | .busError => (⟨0, true⟩, s)
  | .reg r => (⟨0, false⟩, writeReg r v s)
  | .bufWord a =>
    (⟨0, false⟩, whenIdle (fun s => { s with buf := s.buf.writeBytes a (unpackLanes v).toList }) s)
  | .bufByte a => (⟨0, false⟩, whenIdle (fun s => { s with buf := s.buf.write a (v.setWidth 8) }) s)

/-- The response reaches the host: notes/assumptions/6.md. -/
def respond (p : Response × State) : State := { p.2 with responses := p.1 :: p.2.responses }

/-- 70 R320, R321: the reset input: every register and the hidden state take their reset values, BUF keeps its bytes, a
running command is abandoned. The instance's parameter and the environment stay: notes/assumptions/14.md. -/
def resetInput (s : State) : State :=
  { State.reset with
    bufBytes := s.bufBytes, buf := s.buf, events := s.events, responses := s.responses, draws := s.draws }

/-- 30_encoding R108: one round of `wait`: read STATUS; while BUSY = 1 the engine moves and the host reads again. That
the engine moves once between two reads is one interleaving: notes/assumptions/15.md. -/
def waitRound (s : State) : State :=
  let s1 := respond (hostRead Reg.status.offset 4 s)
  if s.busy then { s1 with events := .engine :: .wait :: s1.events } else s1

/-- 30_encoding R108: `if rd NAME == v: body`: one read, then the `skip` events of the body are left out unless the
value read equals `v`. -/
def branchOnRead (off : Nat) (v : Word) (skip : Nat) (s : State) : State :=
  let p := hostRead off 4 s
  let s1 := respond p
  if p.1.data = v then s1 else { s1 with events := s1.events.drop skip }

end Sys2Proof.Machine
end

