-- ==== Sys2Proof/Machine/Environment.lean ====
section
/-!
DEFINITION. What each event of the environment does (00_scope R21; 20_memory R80, R81).
-/

namespace Sys2Proof.Machine

/-- One event, already taken off the list. Host accesses and reset never stop; an engine step has its own outcome. -/
def onEvent (e : Event) (s : State) : Result :=
  match e with
  | .engine => engineStep s
  | .read off size => .next (respond (hostRead off size s))
  | .write off size v => .next (respond (hostWrite off size v s))
  | .wait => .next (waitRound s)
  | .ifReg off v skip => .next (branchOnRead off v skip s)
  | .reset => .next (resetInput s)

/-- The engine moves before every event already listed. -/
def engineNext (s : State) : State := { s with events := .engine :: s.events }

end Sys2Proof.Machine
end

