-- ==== Sys2Proof/Machine/Step.lean ====
section
/-!
DEFINITION. One step of the block: the environment's next event, or an engine step when it has none.
-/

namespace Sys2Proof.Machine

/-- 00_scope R21: host and engine step one at a time; `events` says which (notes/assumptions/1.md). -/
def step (s : State) : Host.Outcome State Fault Refusal :=
  match s.events with
  | [] => engineStep s
  | e :: rest => onEvent e { s with events := rest }

/-- The state in which the command word `w` has been accepted (45_control R261) and the engine moves next, so that the
very next step runs it: notes/assumptions/9.md. -/
def State.withFetchWord (s : State) (nbits w : Nat) : State :=
  engineNext (accept (BitVec.ofNat 32 (w % 2 ^ nbits)) s)

end Sys2Proof.Machine
end

