-- ==== Sys2Proof/Machine/HostProgram.lean ====
section
/-!
DEFINITION. The host-program notation (30_encoding R107, R108) as functions that give the events they stand for. "The
block sees only the expanded accesses."
-/

namespace Sys2Proof.Machine.HostProgram

/-- `wr NAME, v` -/
def wr (r : Reg) (v : Word) : List Event := [.write r.offset 4 v]

/-- `wrb BUF+a, v` -/
def wrb (a : Nat) (v : Byte) : List Event := [.write (bufOffset + a) 1 (v.setWidth 32)]

/-- `wrw BUF+a, v`, a a multiple of 4 -/
def wrw (a : Nat) (v : Word) : List Event := [.write (bufOffset + a) 4 v]

/-- `rd NAME` -/
def rd (r : Reg) : List Event := [.read r.offset 4]

/-- `rdb BUF+a` -/
def rdb (a : Nat) : List Event := [.read (bufOffset + a) 1]

/-- `rdw BUF+a` -/
def rdw (a : Nat) : List Event := [.read (bufOffset + a) 4]

/-- `cmd MNEMONIC` and `cmd ADD_ROUND_KEY r` -/
def cmd (i : Instr) : List Event := wr .cmd (encode i)

/-- `wait` -/
def wait : List Event := [.wait]

/-- `run MNEMONIC [r]` -/
def run (i : Instr) : List Event := cmd i ++ wait

/-- `ld KEY, h`: the four words of R109 -/
def ldKey (h : Block) : List Event :=
  wr (.key 0) (packLanes h.c0) ++ wr (.key 1) (packLanes h.c1) ++ wr (.key 2) (packLanes h.c2)
    ++ wr (.key 3) (packLanes h.c3)

/-- `ld BLK, h` -/
def ldBlk (h : Block) : List Event :=
  wr (.blk 0) (packLanes h.c0) ++ wr (.blk 1) (packLanes h.c1) ++ wr (.blk 2) (packLanes h.c2)
    ++ wr (.blk 3) (packLanes h.c3)

/-- `ldbuf a, h` -/
def ldbuf (a : Nat) : List Byte → List Event
  | [] => []
  | x :: xs => wrb a x ++ ldbuf (a + 1) xs

/-- `ack`: clears DONE and CMD_DROPPED -/
def ackDone : List Event := wr .status 0x0000000A

/-- `repeat r = a..b: body`; no iteration when b < a -/
def repeatRange (a b : Nat) (body : Nat → List Event) : List Event :=
  (List.range' a (b + 1 - a)).flatMap body

/-- `if rd NAME == v: body` -/
def ifRd (r : Reg) (v : Word) (body : List Event) : List Event := .ifReg r.offset v body.length :: body

/-- `expect NAME = v` is the read; the value stands in the response. -/
def expect (r : Reg) : List Event := rd r

end Sys2Proof.Machine.HostProgram
end

