-- ==== Sys2Proof/Safety.lean ====
section
/-!
DEFINITION. What a safe state is: the invariant of the block that every step keeps, gathered from the spec's statements
about the whole machine, and the states from which the engine may run.
-/

namespace Sys2Proof.Machine

/-- 60_exceptions R280, R282: the codes that are ever written to ERR.CODE. -/
def writtenCodes : List Byte := [0x00, 0x03, 0x04, 0x05, 0x06, 0x07, 0x08]

/-- 10_state R43, 00_scope R10: BUF_BYTES is legal, BUF is in canonical form and lies inside 0..BUF_BYTES-1. -/
structure State.BufInv (s : State) : Prop where
  legal : Config.bufBytesLegal s.bufBytes = true
  wf : s.buf.wf = true
  inside : s.buf.inside s.bufBytes = true

/-- What holds of the flags and the schedule in every phase. -/
structure State.FlagInv (s : State) : Prop where
  /-- 60 R280 -/
  code : s.errCode ∈ writtenCodes
  /-- 10_state R36: "after any other completion it is 0" -/
  outlenAfterError : s.errCode ≠ 0 → s.outlen = 0
  /-- 10_state R41: RK holds the expansion of a key when KS_VALID = 1 -/
  schedule : s.ksValid = true → ∃ key, s.rk = keyExpand key
  /-- 70 R324: while KS_VALID = 0, RK holds its reset value -/
  noSchedule : s.ksValid = false → s.rk = .zero
  /-- 45 R261, R263: DONE, ERR.CODE and OUTLEN are 0 from acceptance to completion -/
  running : s.busy = true → s.done = false ∧ s.errCode = 0 ∧ s.outlen = 0
  /-- 44 R230, 10_state R52: an abort request is pending only for a running command it reaches -/
  abort : s.abortReq = true → s.abortable = true

/-- 44 R221, R222: what holds before block step k of ECB_ENC. -/
structure State.EncInv (s : State) (k : Nat) : Prop where
  cmd : s.curCmd = encode .ecbEnc
  count : s.n = s.len.toNat / 16 + 1
  pad : s.padLen = padLength s.len.toNat
  index : k < s.n
  srcRange : s.src.toNat + s.len.toNat ≤ s.bufBytes
  dstRange : s.dst.toNat + 16 * s.n ≤ s.bufBytes
  valid : s.ksValid = true
  schedule : s.rk = keyExpand s.key
  blocks : s.blkcnt.toNat = k

/-- 44 R225, R226: what holds from the setup step of ECB_DEC on. -/
structure State.DecInv (s : State) (k : Nat) : Prop where
  cmd : s.curCmd = encode .ecbDec
  whole : s.len.toNat % 16 = 0
  nonempty : 0 < s.len.toNat
  count : s.n = s.len.toNat / 16
  srcRange : s.src.toNat + s.len.toNat ≤ s.bufBytes
  valid : s.ksValid = true
  schedule : s.rk = keyExpand s.key
  blocks : s.blkcnt.toNat = k

/-- 44 R226: what the validation step adds. -/
structure State.DecWriteInv (s : State) (k : Nat) : Prop where
  index : k < s.n
  pad : s.padLen = (s.w.byte 15).toNat
  padLow : 1 ≤ s.padLen
  padHigh : s.padLen ≤ 16
  dstRange : s.dst.toNat + (s.len.toNat - s.padLen) ≤ s.bufBytes

/-- What each phase means (10_state R44). -/
def State.PhaseInv (s : State) : Prop :=
  match s.phase with
  | .idle => True
  | .start w => s.curCmd = w ∧ s.blkcnt = 0
  | .ecbEnc k => s.EncInv k
  | .ecbDecValidate => s.DecInv 0
  | .ecbDec k => s.DecInv k ∧ s.DecWriteInv k

/-- The invariant of the block. -/
structure State.Inv (s : State) : Prop where
  buf : s.BufInv
  flags : s.FlagInv
  phase : s.PhaseInv

/-- The `n` bytes of BUF from address `a` on. -/
def State.bytesAt (s : State) (a n : Nat) : List Byte := s.buf.readBytes a n

/-- `t` holds in every BUF byte outside `a .. a+n-1` what `s` holds there. -/
def State.SameBytesOutside (s t : State) (a n : Nat) : Prop :=
  ∀ x, (x < a ∨ a + n ≤ x) → t.buf.read x = s.buf.read x

end Sys2Proof.Machine
end

