-- ==== Sys2Proof/Certificates/Slice0/Obligations.lean ====
section
/-!
DEFINITION. The statements for the provers. Each says which rule of the spec it formalises; the values it writes out are
the spec's. A command's statement gives the whole next state, so it is the command's result, its frame and its
completion in one.
-/

open Sys2Proof Sys2Proof.Machine

/-! ### Encoding (file 30) -/

/-- 30 R102: the words of the opcode map decode to the commands they stand for. -/
def Obligations.OpcodeMapWordsDecode : Prop :=
  decode 0x00000000 = .ok .nop ∧ decode 0x00000001 = .ok .expandKey ∧ decode 0x00000002 = .ok .encBlock
  ∧ decode 0x00000003 = .ok .decBlock ∧ decode 0x00000004 = .ok .ecbEnc ∧ decode 0x00000005 = .ok .ecbDec
  ∧ decode 0x00000010 = .ok .subBytes ∧ decode 0x00000011 = .ok .invSubBytes
  ∧ decode 0x00000012 = .ok .shiftRows ∧ decode 0x00000013 = .ok .invShiftRows
  ∧ decode 0x00000014 = .ok .mixColumns ∧ decode 0x00000015 = .ok .invMixColumns
  ∧ decode 0x00000A16 = .ok (.addRoundKey 10) ∧ decode 0x00000020 = .ok .gfMul

/-- 30 R100, R102: decoding the encoding of a well-formed command gives it back, for every command and every legal
round index; the encoded word has the command's OP and RIDX and a zero RSV. -/
def Obligations.DecodeUndoesEncode : Prop :=
  ∀ i : Instr, i.wf = true →
    decode (encode i) = .ok i ∧ (encode i).extractLsb' 0 8 = i.opcode ∧ (encode i).extractLsb' 8 4 = i.ridx
      ∧ (encode i).extractLsb' 12 20 = 0

/-- 30 R104: match and mask of every command: the decoder answers a command on exactly the words the table matches, and
the eleven legal ADD_ROUND_KEY words are 0x16, 0x116, ..., 0xA16. -/
def Obligations.DecodeFollowsMatchAndMask : Prop :=
  (∀ (i : Instr) (w : Word), (∀ r, i ≠ .addRoundKey r) → (decode w = .ok i ↔ w = i.opcode.setWidth 32))
  ∧ (∀ (r : BitVec 4) (w : Word),
      decode w = .ok (.addRoundKey r) ↔ (w &&& 0xFFFFF0FF = 0x00000016 ∧ w.extractLsb' 8 4 = r ∧ r.toNat ≤ 10))
  ∧ (∀ w : Word, (∃ r, decode w = .ok (.addRoundKey r)) ↔
      w ∈ ([0x016, 0x116, 0x216, 0x316, 0x416, 0x516, 0x616, 0x716, 0x816, 0x916, 0xA16] : List Word))

/-- 30 R103, R105, 45 R265: a word is decoded exactly when it is legal; an accepted word that is not legal completes with
ILLEGAL_CMD (0x05) and no other effect, and CMD then reads it. -/
def Obligations.IllegalWordsCompleteWithIllegalCmd : Prop :=
  (∀ w : Word, (∃ i, decode w = .ok i) ↔
    (w.extractLsb' 12 20 = 0
      ∧ ((w.extractLsb' 0 8 = 0x16 ∧ (w.extractLsb' 8 4).toNat ≤ 10)
        ∨ (w.extractLsb' 0 8
              ∈ ([0x00, 0x01, 0x02, 0x03, 0x04, 0x05, 0x10, 0x11, 0x12, 0x13, 0x14, 0x15, 0x20] : List Byte)
            ∧ w.extractLsb' 8 4 = 0))))
  ∧ (∀ (s : State) (w : Word), s.phase = .start w → s.curCmd = w → (∀ i, decode w ≠ .ok i) →
      ∃ t, engineStep s = .next t
        ∧ t = { s with errCode := 0x05, abortReq := false, phase := .idle, done := true }
        ∧ readReg .cmd t = w)

/-! ### Steps, idleness, reset (files 00, 45, 70) -/

/-- 45 R264: in START(w) the engine's next step runs the command w decodes to, or raises ILLEGAL_CMD; every command other
than ECB_ENC and ECB_DEC completes in this step. The environment's list says who moves (the model's form of the
interleaving, notes/assumptions/1.md): with an empty list, or with the engine's move first, `step` is that step. -/
def Obligations.StepRunsTheAcceptedCommand : Prop :=
  ∀ (s : State) (w : Word), s.phase = .start w →
    (∀ i, decode w = .ok i →
      (s.events = [] → step s = exec i s)
      ∧ (∀ rest, s.events = .engine :: rest → step s = exec i { s with events := rest })
      ∧ (i ≠ .ecbEnc → i ≠ .ecbDec →
          ∃ t, exec i s = .next t ∧ t.phase = .idle ∧ t.done = true))
    ∧ ((∀ i, decode w ≠ .ok i) →
      (s.events = [] → step s = raise .illegalCmd s)
      ∧ (∀ rest, s.events = .engine :: rest → step s = raise .illegalCmd { s with events := rest }))

/-- 45 R268, 60 R305: when phase = IDLE the engine has no step; only host accesses (and reset) change state. -/
def Obligations.IdleEngineHasNoStep : Prop :=
  (∀ s : State, s.phase = .idle → engineStep s = .next s)
  ∧ (∀ s t : State, s.phase = .idle → step s = .next t →
      (∃ off size v rest, s.events = .write off size v :: rest) ∨ (∃ rest, s.events = .reset :: rest)
      ∨ t = { s with events := t.events, responses := t.responses })

/-- 10_state R50, 70 R320, R321: after reset every register reads 0 and the hidden state has its reset values, whatever
command was running; BUF keeps its bytes, and after power-up they are BUF_INIT. -/
def Obligations.ResetGivesTheResetValues : Prop :=
  (∀ r : Reg, readReg r State.reset = 0) ∧ (∀ a, State.reset.buf.read a = Config.bufInit a)
  ∧ ∀ (s : State) (rest : List Event), s.events = .reset :: rest →
    ∃ t, step s = .next t ∧ (∀ r : Reg, readReg r t = 0) ∧ t.phase = .idle ∧ t.abortReq = false ∧ t.curCmd = 0
      ∧ t.n = 0 ∧ t.padLen = 0 ∧ t.w = .zero ∧ t.irq = false ∧ t.done = false ∧ t.errCode = 0
      ∧ (∀ a, t.buf.read a = s.buf.read a)

/-- 70 R324: RK after reset is zero with KS_VALID = 0 and is no schedule of any key (the zero key's RK[1] is
62636363...), so the three commands that need one raise NO_SCHEDULE (0x06) in every state with KS_VALID = 0. -/
def Obligations.ResetRoundKeysAreNoSchedule : Prop :=
  State.reset.ksValid = false ∧ State.reset.rk = .zero ∧ (∀ key, keyExpand key ≠ State.reset.rk)
  ∧ ((keyExpand .zero).get 1 = .ofCols fun _ => ⟨0x62, 0x63, 0x63, 0x63⟩)
  ∧ ∀ (s : State) (i : Instr), s.ksValid = false → i.wf = true →
      (i = .encBlock ∨ i = .decBlock ∨ ∃ r, i = .addRoundKey r) →
      exec i s = .next { s with errCode := 0x06, abortReq := false, phase := .idle, done := true }

/-! ### GF(2^8) and the tables (file 40) -/

/-- 40 R131: GF_MUL, its corner cases and its worked example. -/
def Obligations.GfMulWritesTheProduct : Prop :=
  encode .gfMul = 0x00000020
  ∧ (∀ s : State, exec .gfMul s = .next
      { s with
        gfR := gmul s.gfA s.gfB, errCode := 0x00, abortReq := false, phase := .idle, done := true })
  ∧ (∀ s : State, ∃ t, exec .gfMul (accept 0x00000020 s) = .next t ∧ t.outlen = 0 ∧ t.blkcnt = 0)
  ∧ (∀ a : Byte, gmul a 0x00 = 0x00 ∧ gmul 0x00 a = 0x00 ∧ gmul a 0x01 = a ∧ gmul 0x01 a = a)
  ∧ (∀ a b : Byte, gmul a b = gmul b a) ∧ gmul 0x80 0x02 = 0x1B ∧ gmul 0x57 0x83 = 0xC1

/-- 40 R132: the laws of gmul the source states. -/
def Obligations.GmulIsLinear : Prop :=
  ∀ a b c : Byte, gmul a 0 = 0 ∧ gmul a 1 = a ∧ gmul a (b ^^^ c) = gmul a b ^^^ gmul a c

/-- 40 R133: gmul is commutative and associative, multiplication by 2 is xtime, and every nonzero byte has a unique
inverse. -/
def Obligations.GmulCommutesAssociatesAndInverts : Prop :=
  (∀ a b : Byte, gmul a b = gmul b a) ∧ (∀ a b c : Byte, gmul (gmul a b) c = gmul a (gmul b c))
  ∧ (∀ a : Byte, gmul a 2 = (a <<< 1) ^^^ (if a.getLsbD 7 then 0x1B else 0x00))
  ∧ (∀ a : Byte, a ≠ 0 → ∃ b, gmul a b = 1 ∧ ∀ b', gmul a b' = 1 → b' = b)

/-- 40 R137, R138, R139: the tables are inverse bijections without fixed or opposite fixed points, S has the algebraic
form, and the round constants are the successive powers of 2. -/
def Obligations.TablesSatisfyTheirLaws : Prop :=
  (∀ x : Byte, invSbox (sbox x) = x ∧ sbox (invSbox x) = x ∧ sbox x ≠ x ∧ sbox x ≠ x ^^^ 0xFF)
  ∧ (∀ x b : Byte, (x = 0 → b = 0) → (x ≠ 0 → gmul x b = 1) →
      sbox x = b ^^^ b.rotateLeft 1 ^^^ b.rotateLeft 2 ^^^ b.rotateLeft 3 ^^^ b.rotateLeft 4 ^^^ 0x63)
  ∧ (List.ofFn rcon = [0x01, 0x02, 0x04, 0x08, 0x10, 0x20, 0x40, 0x80, 0x1B, 0x36])
  ∧ (∀ r : Fin 9, rcon r.succ = gmul (rcon r.castSucc) 0x02)

/-! ### Round transforms (file 41) -/

/-- 41 R151: SUB_BYTES. -/
def Obligations.SubBytesSubstitutesEveryByte : Prop :=
  encode .subBytes = 0x00000010
  ∧ (∀ s : State, exec .subBytes s = .next
      { s with
        blk := .ofBytes fun i => sbox (s.blk.byte i)
        errCode := 0x00, abortReq := false, phase := .idle, done := true })
  ∧ (∀ b i, (subBytes b).byte i = sbox (b.byte i)) ∧ subBytes .zero = .ofBytes (fun _ => 0x63)
  ∧ Function.Bijective subBytes
  ∧ subBytes ⟨⟨0x19, 0x3d, 0xe3, 0xbe⟩, ⟨0xa0, 0xf4, 0xe2, 0x2b⟩, ⟨0x9a, 0xc6, 0x8d, 0x2a⟩, ⟨0xe9, 0xf8, 0x48, 0x08⟩⟩
    = ⟨⟨0xd4, 0x27, 0x11, 0xae⟩, ⟨0xe0, 0xbf, 0x98, 0xf1⟩, ⟨0xb8, 0xb4, 0x5d, 0xe5⟩, ⟨0x1e, 0x41, 0x52, 0x30⟩⟩

/-- 41 R152: INV_SUB_BYTES. -/
def Obligations.InvSubBytesSubstitutesEveryByte : Prop :=
  encode .invSubBytes = 0x00000011
  ∧ (∀ s : State, exec .invSubBytes s = .next
      { s with
        blk := .ofBytes fun i => invSbox (s.blk.byte i)
        errCode := 0x00, abortReq := false, phase := .idle, done := true })
  ∧ (∀ b i, (invSubBytes b).byte i = invSbox (b.byte i))
  ∧ invSubBytes (.ofBytes fun _ => 0x63) = .zero ∧ invSubBytes .zero = .ofBytes (fun _ => 0x52)
  ∧ invSubBytes ⟨⟨0xd4, 0x27, 0x11, 0xae⟩, ⟨0xe0, 0xbf, 0x98, 0xf1⟩, ⟨0xb8, 0xb4, 0x5d, 0xe5⟩, ⟨0x1e, 0x41, 0x52, 0x30⟩⟩
    = ⟨⟨0x19, 0x3d, 0xe3, 0xbe⟩, ⟨0xa0, 0xf4, 0xe2, 0x2b⟩, ⟨0x9a, 0xc6, 0x8d, 0x2a⟩, ⟨0xe9, 0xf8, 0x48, 0x08⟩⟩

/-- 41 R154: SHIFT_ROWS, in matrix form and by the permutation P of the linear form. -/
def Obligations.ShiftRowsRotatesRowsLeft : Prop :=
  encode .shiftRows = 0x00000012
  ∧ (∀ s : State, exec .shiftRows s = .next
      { s with
        blk := .ofBytes fun i => s.blk.byte ((![0, 5, 10, 15, 4, 9, 14, 3, 8, 13, 2, 7, 12, 1, 6, 11] : Fin 16 → Fin 16) i)
        errCode := 0x00, abortReq := false, phase := .idle, done := true })
  ∧ (∀ b r c, (shiftRows b).entry r c = b.entry r (c + r)) ∧ (∀ b c, (shiftRows b).entry 0 c = b.entry 0 c)
  ∧ (∀ x : Col, shiftRows (.ofCols fun _ => x) = .ofCols fun _ => x)
  ∧ (∀ b, ∀ i ∈ ([0, 4, 8, 12] : List (Fin 16)), (shiftRows b).byte i = b.byte i)
  ∧ shiftRows ⟨⟨0xd4, 0x27, 0x11, 0xae⟩, ⟨0xe0, 0xbf, 0x98, 0xf1⟩, ⟨0xb8, 0xb4, 0x5d, 0xe5⟩, ⟨0x1e, 0x41, 0x52, 0x30⟩⟩
    = ⟨⟨0xd4, 0xbf, 0x5d, 0x30⟩, ⟨0xe0, 0xb4, 0x52, 0xae⟩, ⟨0xb8, 0x41, 0x11, 0xf1⟩, ⟨0x1e, 0x27, 0x98, 0xe5⟩⟩

/-- 41 R155: INV_SHIFT_ROWS, in matrix form and by the permutation Q of the linear form. -/
def Obligations.InvShiftRowsRotatesRowsRight : Prop :=
  encode .invShiftRows = 0x00000013
  ∧ (∀ s : State, exec .invShiftRows s = .next
      { s with
        blk := .ofBytes fun i => s.blk.byte ((![0, 13, 10, 7, 4, 1, 14, 11, 8, 5, 2, 15, 12, 9, 6, 3] : Fin 16 → Fin 16) i)
        errCode := 0x00, abortReq := false, phase := .idle, done := true })
  ∧ (∀ b r c, (invShiftRows b).entry r c = b.entry r (c - r)) ∧ (∀ b c, (invShiftRows b).entry 0 c = b.entry 0 c)
  ∧ (∀ x : Col, invShiftRows (.ofCols fun _ => x) = .ofCols fun _ => x)
  ∧ (∀ b, ∀ i ∈ ([0, 4, 8, 12] : List (Fin 16)), (invShiftRows b).byte i = b.byte i)
  ∧ (∀ b c, (invShiftRows b).entry 2 c = (shiftRows b).entry 2 c)
  ∧ invShiftRows ⟨⟨0xd4, 0xbf, 0x5d, 0x30⟩, ⟨0xe0, 0xb4, 0x52, 0xae⟩, ⟨0xb8, 0x41, 0x11, 0xf1⟩, ⟨0x1e, 0x27, 0x98, 0xe5⟩⟩
    = ⟨⟨0xd4, 0x27, 0x11, 0xae⟩, ⟨0xe0, 0xbf, 0x98, 0xf1⟩, ⟨0xb8, 0xb4, 0x5d, 0xe5⟩, ⟨0x1e, 0x41, 0x52, 0x30⟩⟩

/-- 41 R158: MIX_COLUMNS, its corner cases, its linearity and its worked examples. -/
def Obligations.MixColumnsMultipliesEveryColumn : Prop :=
  encode .mixColumns = 0x00000014
  ∧ (∀ s : State, ∃ b, exec .mixColumns s = .next
      { s with blk := b, errCode := 0x00, abortReq := false, phase := .idle, done := true }
      ∧ b = mixColumns s.blk
      ∧ ∀ c : Fin 4,
        b.entry 0 c = gmul 2 (s.blk.entry 0 c) ^^^ gmul 3 (s.blk.entry 1 c) ^^^ s.blk.entry 2 c ^^^ s.blk.entry 3 c
        ∧ b.entry 1 c = s.blk.entry 0 c ^^^ gmul 2 (s.blk.entry 1 c) ^^^ gmul 3 (s.blk.entry 2 c) ^^^ s.blk.entry 3 c
        ∧ b.entry 2 c = s.blk.entry 0 c ^^^ s.blk.entry 1 c ^^^ gmul 2 (s.blk.entry 2 c) ^^^ gmul 3 (s.blk.entry 3 c)
        ∧ b.entry 3 c = gmul 3 (s.blk.entry 0 c) ^^^ s.blk.entry 1 c ^^^ s.blk.entry 2 c ^^^ gmul 2 (s.blk.entry 3 c))
  ∧ (∀ (b : Block) (c : Fin 4), b.col c = .zero → (mixColumns b).col c = .zero)
  ∧ (∀ (b : Block) (c : Fin 4) (x : Byte), b.col c = ⟨x, x, x, x⟩ → (mixColumns b).col c = b.col c)
  ∧ (∀ b b' : Block, mixColumns (b.xor b') = (mixColumns b).xor (mixColumns b'))
  ∧ (mixColumns (.ofCols fun _ => ⟨0xdb, 0x13, 0x53, 0x45⟩)).col 0 = ⟨0x8e, 0x4d, 0xa1, 0xbc⟩
  ∧ mixColumns ⟨⟨0xd4, 0xbf, 0x5d, 0x30⟩, ⟨0xe0, 0xb4, 0x52, 0xae⟩, ⟨0xb8, 0x41, 0x11, 0xf1⟩, ⟨0x1e, 0x27, 0x98, 0xe5⟩⟩
    = ⟨⟨0x04, 0x66, 0x81, 0xe5⟩, ⟨0xe0, 0xcb, 0x19, 0x9a⟩, ⟨0x48, 0xf8, 0xd3, 0x7a⟩, ⟨0x28, 0x06, 0x26, 0x4c⟩⟩

/-- 41 R159: INV_MIX_COLUMNS, its corner cases, its linearity and its worked examples. -/
def Obligations.InvMixColumnsMultipliesEveryColumn : Prop :=
  encode .invMixColumns = 0x00000015
  ∧ (∀ s : State, ∃ b, exec .invMixColumns s = .next
      { s with blk := b, errCode := 0x00, abortReq := false, phase := .idle, done := true }
      ∧ b = invMixColumns s.blk
      ∧ ∀ c : Fin 4,
        b.entry 0 c = gmul 14 (s.blk.entry 0 c) ^^^ gmul 11 (s.blk.entry 1 c) ^^^ gmul 13 (s.blk.entry 2 c)
          ^^^ gmul 9 (s.blk.entry 3 c)
        ∧ b.entry 1 c = gmul 9 (s.blk.entry 0 c) ^^^ gmul 14 (s.blk.entry 1 c) ^^^ gmul 11 (s.blk.entry 2 c)
          ^^^ gmul 13 (s.blk.entry 3 c)
        ∧ b.entry 2 c = gmul 13 (s.blk.entry 0 c) ^^^ gmul 9 (s.blk.entry 1 c) ^^^ gmul 14 (s.blk.entry 2 c)
          ^^^ gmul 11 (s.blk.entry 3 c)
        ∧ b.entry 3 c = gmul 11 (s.blk.entry 0 c) ^^^ gmul 13 (s.blk.entry 1 c) ^^^ gmul 9 (s.blk.entry 2 c)
          ^^^ gmul 14 (s.blk.entry 3 c))
  ∧ (∀ (b : Block) (c : Fin 4), b.col c = .zero → (invMixColumns b).col c = .zero)
  ∧ (∀ (b : Block) (c : Fin 4) (x : Byte), b.col c = ⟨x, x, x, x⟩ → (invMixColumns b).col c = b.col c)
  ∧ (∀ b b' : Block, invMixColumns (b.xor b') = (invMixColumns b).xor (invMixColumns b'))
  ∧ (invMixColumns (.ofCols fun _ => ⟨0x8e, 0x4d, 0xa1, 0xbc⟩)).col 0 = ⟨0xdb, 0x13, 0x53, 0x45⟩
  ∧ invMixColumns ⟨⟨0x04, 0x66, 0x81, 0xe5⟩, ⟨0xe0, 0xcb, 0x19, 0x9a⟩, ⟨0x48, 0xf8, 0xd3, 0x7a⟩, ⟨0x28, 0x06, 0x26, 0x4c⟩⟩
    = ⟨⟨0xd4, 0xbf, 0x5d, 0x30⟩, ⟨0xe0, 0xb4, 0x52, 0xae⟩, ⟨0xb8, 0x41, 0x11, 0xf1⟩, ⟨0x1e, 0x27, 0x98, 0xe5⟩⟩

/-- 41 R161: ADD_ROUND_KEY r for r = 0..10, NO_SCHEDULE without a valid schedule, ILLEGAL_CMD for RIDX > 10, the corner
cases and the worked example. -/
def Obligations.AddRoundKeyXorsTheSelectedKey : Prop :=
  (∀ r : BitVec 4, encode (.addRoundKey r) = (r.setWidth 32 <<< 8 ||| 0x16)
    ∧ (encode (.addRoundKey r)).extractLsb' 8 4 = r)
  ∧ (∀ (s : State) (r : Fin 11), s.ksValid = true → exec (.addRoundKey (BitVec.ofNat 4 r.val)) s = .next
      { s with
        blk := .ofBytes fun i => s.blk.byte i ^^^ (s.rk.get r).byte i
        errCode := 0x00, abortReq := false, phase := .idle, done := true })
  ∧ (∀ (s : State) (r : Fin 11), s.ksValid = false → exec (.addRoundKey (BitVec.ofNat 4 r.val)) s = .next
      { s with errCode := 0x06, abortReq := false, phase := .idle, done := true })
  ∧ (∀ (s : State) (r : BitVec 4), 10 < r.toNat → s.phase = .start (encode (.addRoundKey r)) →
      engineStep s = .next { s with errCode := 0x05, abortReq := false, phase := .idle, done := true })
  ∧ (∀ b : Block, addRoundKey b .zero = b) ∧ (∀ b k : Block, addRoundKey (addRoundKey b k) k = b)
  ∧ addRoundKey
      ⟨⟨0x04, 0x66, 0x81, 0xe5⟩, ⟨0xe0, 0xcb, 0x19, 0x9a⟩, ⟨0x48, 0xf8, 0xd3, 0x7a⟩, ⟨0x28, 0x06, 0x26, 0x4c⟩⟩
      ((keyExpand ⟨⟨0x2b, 0x7e, 0x15, 0x16⟩, ⟨0x28, 0xae, 0xd2, 0xa6⟩, ⟨0xab, 0xf7, 0x15, 0x88⟩,
        ⟨0x09, 0xcf, 0x4f, 0x3c⟩⟩).get 1)
    = ⟨⟨0xa4, 0x9c, 0x7f, 0xf2⟩, ⟨0x68, 0x9f, 0x35, 0x2b⟩, ⟨0x6b, 0x5b, 0xea, 0x43⟩, ⟨0x02, 0x6a, 0x50, 0x49⟩⟩

/-- 41 R153, R156, R157, R162: the inverses and the commutation of the transforms, on every block. -/
def Obligations.RoundTransformsInvertAndCommute : Prop :=
  ∀ b k : Block,
    invSubBytes (subBytes b) = b ∧ subBytes (invSubBytes b) = b
    ∧ invShiftRows (shiftRows b) = b ∧ shiftRows (invShiftRows b) = b
    ∧ shiftRows (subBytes b) = subBytes (shiftRows b)
    ∧ invShiftRows (invSubBytes b) = invSubBytes (invShiftRows b)
    ∧ addRoundKey (addRoundKey b k) k = b

/-- 41 R160: MixColumns and InvMixColumns are exact inverses on every block. -/
def Obligations.MixColumnsInverts : Prop :=
  ∀ b : Block, invMixColumns (mixColumns b) = b ∧ mixColumns (invMixColumns b) = b

/-- 41 R150: SUB_BYTES, INV_SUB_BYTES, SHIFT_ROWS, INV_SHIFT_ROWS, MIX_COLUMNS and INV_MIX_COLUMNS read BLK and no other
operand, ADD_ROUND_KEY reads BLK, RK and KS_VALID: two states that agree there get the same BLK, whatever else differs, and
only BLK and the fields of completion change. For a round index above 10, which the decoder never yields, what `exec` does is
the model's own (notes/assumptions/12.md). -/
def Obligations.RoundCommandsReadOnlyTheirOperands : Prop :=
  (∀ i ∈ [Instr.subBytes, .invSubBytes, .shiftRows, .invShiftRows, .mixColumns, .invMixColumns],
    ∀ s s' : State, s.blk = s'.blk →
      ∃ t t', exec i s = .next t ∧ exec i s' = .next t' ∧ t.blk = t'.blk
        ∧ t.phase = .idle ∧ t.done = true ∧ t = { s with
          blk := t.blk, errCode := t.errCode, abortReq := t.abortReq, phase := t.phase, done := t.done })
  ∧ ∀ (r : BitVec 4) (s s' : State), s.blk = s'.blk → s.rk = s'.rk → s.ksValid = s'.ksValid →
      ∃ t t', exec (.addRoundKey r) s = .next t ∧ exec (.addRoundKey r) s' = .next t' ∧ t.blk = t'.blk
        ∧ t.phase = .idle ∧ t.done = true ∧ t = { s with
          blk := t.blk, errCode := t.errCode, abortReq := t.abortReq, phase := t.phase, done := t.done }

/-! ### Key schedule (file 42) -/

/-- 42 R181: EXPAND_KEY, its corner cases and its worked example. -/
def Obligations.ExpandKeyWritesTheSchedule : Prop :=
  encode .expandKey = 0x00000001
  ∧ (∀ s : State, exec .expandKey s = .next
      { s with
        rk := keyExpand s.key, ksValid := true
        errCode := 0x00, abortReq := false, phase := .idle, done := true })
  ∧ (∀ s : State, ∃ t u, exec .expandKey s = .next t ∧ exec .expandKey t = .next u ∧ u.rk = t.rk ∧ u.blk = s.blk)
  ∧ (let key : Block := ⟨⟨0x2b, 0x7e, 0x15, 0x16⟩, ⟨0x28, 0xae, 0xd2, 0xa6⟩, ⟨0xab, 0xf7, 0x15, 0x88⟩,
        ⟨0x09, 0xcf, 0x4f, 0x3c⟩⟩
     (keyExpand key).get 1
        = ⟨⟨0xa0, 0xfa, 0xfe, 0x17⟩, ⟨0x88, 0x54, 0x2c, 0xb1⟩, ⟨0x23, 0xa3, 0x39, 0x39⟩, ⟨0x2a, 0x6c, 0x76, 0x05⟩⟩
      ∧ (keyExpand key).get 10
        = ⟨⟨0xd0, 0x14, 0xf9, 0xa8⟩, ⟨0xc9, 0xee, 0x25, 0x89⟩, ⟨0xe1, 0x3f, 0x0c, 0xc8⟩, ⟨0xb6, 0x63, 0x0c, 0xa6⟩⟩)

/-- 42 R180, R184: the expansion byte by byte, its word form, and that a write of the schedule writes all of RK and
KS_VALID in one step. -/
def Obligations.KeyExpandRecurrence : Prop :=
  (∀ key : Block, (keyExpand key).get 0 = key
    ∧ ∀ r : Fin 10,
      (∀ j : Fin 4, ((keyExpand key).get r.succ).entry j 0
        = ((keyExpand key).get r.castSucc).entry j 0
          ^^^ (sbox (((keyExpand key).get r.castSucc).entry (j + 1) 3) ^^^ if j = 0 then rcon r else 0))
      ∧ ∀ j c : Fin 4, c ≠ 0 → ((keyExpand key).get r.succ).entry j c
        = ((keyExpand key).get r.succ).entry j (c - 1) ^^^ ((keyExpand key).get r.castSucc).entry j c)
  ∧ (∀ (key : Block) (i : Fin 40),
      rkColumn (keyExpand key) ⟨i.val + 4, by omega⟩
        = (rkColumn (keyExpand key) ⟨i.val, by omega⟩).xor
          (if i.val % 4 = 0 then
            (subCol (rotUp (rkColumn (keyExpand key) ⟨i.val + 3, by omega⟩))).xor ⟨rcon ⟨i.val / 4, by omega⟩, 0, 0, 0⟩
          else rkColumn (keyExpand key) ⟨i.val + 3, by omega⟩))
  ∧ (∀ s t : State, exec .expandKey s = .next t → t.rk = keyExpand s.key ∧ t.ksValid = true)

/-- 42 R182: the schedule is a function of the key alone, element 0 is the key, and element r is derived from element
r-1 and r only. -/
def Obligations.ScheduleElementsDeriveFromTheirPredecessor : Prop :=
  (∀ key : Block, (keyExpand key).get 0 = key)
  ∧ (∃ f : Fin 10 → Block → Block, ∀ (key : Block) (r : Fin 10),
      (keyExpand key).get r.succ = f r ((keyExpand key).get r.castSucc))
  ∧ (∀ (key key' : Block) (r : Fin 11), (keyExpand key).get r = (keyExpand key').get r →
      ∀ r' : Fin 11, r ≤ r' → (keyExpand key).get r' = (keyExpand key').get r')

/-- 42 R183, 10_state R41: RK and KS_VALID change only when EXPAND_KEY, ECB_ENC or ECB_DEC writes a whole schedule (or at
reset): no other command and no host write changes them. -/
def Obligations.OnlyExpansionChangesTheSchedule : Prop :=
  ∀ s t : State, step s = .next t → (t.rk ≠ s.rk ∨ t.ksValid ≠ s.ksValid) →
    (∃ rest, s.events = .reset :: rest)
    ∨ (t.rk = keyExpand s.key ∧ t.ksValid = true ∧ ∃ w i, s.phase = .start w ∧ decode w = .ok i
        ∧ (i = .expandKey ∨ i = .ecbEnc ∨ i = .ecbDec))

/-- 20_memory R84, 10_state R32, R35, R38, R42, R44, 45 R263: no engine step, of any command, writes KEY, SRC, DST, LEN, GF_A,
GF_B, CTRL.IE, STATUS.CMD_DROPPED or CMD (BLK and BUF it does write). The last four clauses are about the model's own fields:
the instance's parameter (notes/assumptions/2.md) and the environment (notes/assumptions/1.md, 4.md, 6.md). -/
def Obligations.EngineKeepsKeyRangeAndGfOperands : Prop :=
  ∀ s t : State, engineStep s = .next t →
    t.key = s.key ∧ t.src = s.src ∧ t.dst = s.dst ∧ t.len = s.len ∧ t.gfA = s.gfA ∧ t.gfB = s.gfB ∧ t.ie = s.ie
    ∧ t.cmdDropped = s.cmdDropped ∧ t.curCmd = s.curCmd ∧ t.bufBytes = s.bufBytes ∧ t.events = s.events
    ∧ t.responses = s.responses ∧ t.draws = s.draws

/-! ### Block cipher (file 43) -/

/-- 43 R195, R196: ENC_BLOCK is the ten rounds of the cipher; NO_SCHEDULE without a valid schedule. -/
def Obligations.EncBlockRunsTheCipher : Prop :=
  encode .encBlock = 0x00000002
  ∧ (∀ s : State, s.ksValid = true → exec .encBlock s = .next
      { s with blk := cipher s.blk s.rk, errCode := 0x00, abortReq := false, phase := .idle, done := true })
  ∧ (∀ s : State, s.ksValid = false → exec .encBlock s = .next
      { s with errCode := 0x06, abortReq := false, phase := .idle, done := true })
  ∧ (∀ (b : Block) (rk : RoundKeys), ∃ st : Nat → Block,
      st 0 = addRoundKey b (rk.get 0)
      ∧ (∀ i : Fin 9, st (i.val + 1)
          = addRoundKey (mixColumns (shiftRows (subBytes (st i.val)))) (rk.get ⟨i.val + 1, by omega⟩))
      ∧ cipher b rk = addRoundKey (shiftRows (subBytes (st 9))) (rk.get 10))
  ∧ cipher ⟨⟨0x00, 0x11, 0x22, 0x33⟩, ⟨0x44, 0x55, 0x66, 0x77⟩, ⟨0x88, 0x99, 0xaa, 0xbb⟩, ⟨0xcc, 0xdd, 0xee, 0xff⟩⟩
      (keyExpand ⟨⟨0x00, 0x01, 0x02, 0x03⟩, ⟨0x04, 0x05, 0x06, 0x07⟩, ⟨0x08, 0x09, 0x0a, 0x0b⟩, ⟨0x0c, 0x0d, 0x0e, 0x0f⟩⟩)
    = ⟨⟨0x69, 0xc4, 0xe0, 0xd8⟩, ⟨0x6a, 0x7b, 0x04, 0x30⟩, ⟨0xd8, 0xcd, 0xb7, 0x80⟩, ⟨0x70, 0xb4, 0xc5, 0x5a⟩⟩

/-- 43 R197, R198: DEC_BLOCK is the exact reverse of the ten rounds; NO_SCHEDULE without a valid schedule. -/
def Obligations.DecBlockRunsTheInverseCipher : Prop :=
  encode .decBlock = 0x00000003
  ∧ (∀ s : State, s.ksValid = true → exec .decBlock s = .next
      { s with blk := invCipher s.blk s.rk, errCode := 0x00, abortReq := false, phase := .idle, done := true })
  ∧ (∀ s : State, s.ksValid = false → exec .decBlock s = .next
      { s with errCode := 0x06, abortReq := false, phase := .idle, done := true })
  ∧ (∀ (b : Block) (rk : RoundKeys), ∃ st : Nat → Block,
      st 10 = invSubBytes (invShiftRows (addRoundKey b (rk.get 10)))
      ∧ (∀ i : Fin 9, st (i.val + 1)
          = invSubBytes (invShiftRows (invMixColumns (addRoundKey (st (i.val + 2)) (rk.get ⟨i.val + 1, by omega⟩)))))
      ∧ invCipher b rk = addRoundKey (st 1) (rk.get 0))
  ∧ invCipher ⟨⟨0x69, 0xc4, 0xe0, 0xd8⟩, ⟨0x6a, 0x7b, 0x04, 0x30⟩, ⟨0xd8, 0xcd, 0xb7, 0x80⟩, ⟨0x70, 0xb4, 0xc5, 0x5a⟩⟩
      (keyExpand ⟨⟨0x00, 0x01, 0x02, 0x03⟩, ⟨0x04, 0x05, 0x06, 0x07⟩, ⟨0x08, 0x09, 0x0a, 0x0b⟩, ⟨0x0c, 0x0d, 0x0e, 0x0f⟩⟩)
    = ⟨⟨0x00, 0x11, 0x22, 0x33⟩, ⟨0x44, 0x55, 0x66, 0x77⟩, ⟨0x88, 0x99, 0xaa, 0xbb⟩, ⟨0xcc, 0xdd, 0xee, 0xff⟩⟩

/-- 43 R199: Cipher and InvCipher are inverse under every schedule; ENC_BLOCK followed by DEC_BLOCK, with RK and BLK
untouched between them, leaves BLK as it was. -/
def Obligations.CipherAndInverseCipherRoundTrip : Prop :=
  (∀ (b : Block) (rk : RoundKeys), invCipher (cipher b rk) rk = b ∧ cipher (invCipher b rk) rk = b)
  ∧ ∀ s : State, s.ksValid = true → ∃ t, exec .encBlock s = .next t
      ∧ ∀ t' : State, t'.blk = t.blk → t'.rk = t.rk → t'.ksValid = t.ksValid →
          ∃ u, exec .decBlock t' = .next u ∧ u.blk = s.blk

/-- 43 R200: InvCipher equals the standard's ordering of the inverse rounds. -/
def Obligations.InverseCipherStandardOrder : Prop :=
  ∀ (b : Block) (rk : RoundKeys), ∃ st : Nat → Block,
    st 10 = addRoundKey b (rk.get 10)
    ∧ (∀ i : Fin 9, st (i.val + 1)
        = invMixColumns (addRoundKey (invSubBytes (invShiftRows (st (i.val + 2)))) (rk.get ⟨i.val + 1, by omega⟩)))
    ∧ invCipher b rk = addRoundKey (invSubBytes (invShiftRows (st 1))) (rk.get 0)
    ∧ invCipher b rk = addRoundKey (invShiftRows (invSubBytes (st 1))) (rk.get 0)

/-! ### ECB mode (file 44) -/

/-- 44 R215: the padding. -/
def Obligations.PaddingIsOneToSixteenBytes : Prop :=
  ∀ p : List Byte, ∃ padLen : Nat, padLen = 16 - p.length % 16 ∧ 1 ≤ padLen ∧ padLen ≤ 16
    ∧ (p.length % 16 = 0 → padLen = 16) ∧ pad p = p ++ List.replicate padLen (BitVec.ofNat 8 padLen)
    ∧ (pad p).length = 16 * (p.length / 16 + 1)

/-- 44 R216, R218: EncryptECB, block by block: block k of the output is the cipher of block k of the padded input under the
expanded key, and depends on nothing else; identical blocks give identical blocks. -/
def Obligations.EcbEncryptsBlocksIndependently : Prop :=
  (∀ (p : List Byte) (key : Block), (encryptEcb p key).length = 16 * (p.length / 16 + 1)
    ∧ ∀ k < p.length / 16 + 1, ∀ i : Fin 16,
      (encryptEcb p key)[16 * k + i.val]?
        = some ((cipher (.ofBytes fun j => (pad p).getD (16 * k + j.val) 0) (keyExpand key)).byte i))
  ∧ ∀ (p p' : List Byte) (key : Block) (k k' : Nat), k < p.length / 16 + 1 → k' < p'.length / 16 + 1 →
      (∀ j < 16, (pad p)[16 * k + j]? = (pad p')[16 * k' + j]?) →
      ∀ j < 16, (encryptEcb p key)[16 * k + j]? = (encryptEcb p' key)[16 * k' + j]?

/-- 44 R217, R233: DecryptECB's failures and result, by the last decrypted byte alone. -/
def Obligations.EcbDecryptChecksLengthThenLastByte : Prop :=
  ∀ (c : List Byte) (key : Block),
    (c.length % 16 ≠ 0 → decryptEcb c key = .error .invalidCiphertextLength)
    ∧ (c = [] → decryptEcb c key = .error .paddingError)
    ∧ (c.length % 16 = 0 → c ≠ [] → ∃ q : List Byte, q.length = c.length
        ∧ (∀ k < c.length / 16, ∀ i : Fin 16, q[16 * k + i.val]?
            = some ((invCipher (.ofBytes fun j => c.getD (16 * k + j.val) 0) (keyExpand key)).byte i))
        ∧ ∃ last : Byte, q[c.length - 1]? = some last
          ∧ ((last.toNat < 1 ∨ 16 < last.toNat ∨ c.length < last.toNat) → decryptEcb c key = .error .paddingError)
          ∧ (1 ≤ last.toNat → last.toNat ≤ 16 → decryptEcb c key = .ok (q.take (c.length - last.toNat))))

/-- 44 R219: decrypting an encryption gives the plaintext back, for every plaintext and key. -/
def Obligations.EcbDecryptUndoesEncrypt : Prop :=
  ∀ (p : List Byte) (key : Block), decryptEcb (encryptEcb p key) key = .ok p

/-- 44 R221: the setup step of ECB_ENC. What a failed check leaves in the hidden n and padLen is not claimed. -/
def Obligations.EcbEncSetup : Prop :=
  ∀ s : State,
    ((s.src.toNat + s.len.toNat > s.bufBytes ∨ s.dst.toNat + 16 * (s.len.toNat / 16 + 1) > s.bufBytes) →
      ∃ t, exec .ecbEnc s = .next t
        ∧ t = { s with
          n := t.n, padLen := t.padLen, errCode := 0x07, abortReq := false, phase := .idle, done := true })
    ∧ (s.src.toNat + s.len.toNat ≤ s.bufBytes → s.dst.toNat + 16 * (s.len.toNat / 16 + 1) ≤ s.bufBytes →
      exec .ecbEnc s = .next
        { s with
          n := s.len.toNat / 16 + 1, padLen := 16 - s.len.toNat % 16
          rk := keyExpand s.key, ksValid := true, phase := .ecbEnc 0 })

/-- 44 R222: block step k of ECB_ENC: the bytes it reads, the block it writes at DST + 16k and no other byte, BLKCNT, and
on the final block OUTLEN and completion. -/
def Obligations.EcbEncBlockStep : Prop :=
  (∀ (s : State) (k : Nat), s.phase = .ecbEnc k → s.abortReq = false → s.n = s.len.toNat / 16 + 1 →
      s.padLen = 16 - s.len.toNat % 16 → k < s.n → s.src.toNat + s.len.toNat ≤ s.bufBytes →
      s.dst.toNat + 16 * s.n ≤ s.bufBytes →
    ∃ t, engineStep s = .next t
      ∧ (∀ i : Fin 16, t.buf.read (s.dst.toNat + 16 * k + i.val)
          = (cipher (.ofBytes fun j =>
              if k < s.n - 1 ∨ j.val < s.len.toNat % 16 then s.buf.read (s.src.toNat + 16 * k + j.val)
              else BitVec.ofNat 8 s.padLen) s.rk).byte i)
      ∧ s.SameBytesOutside t (s.dst.toNat + 16 * k) 16
      ∧ (k = s.n - 1 → t = { s with
          buf := t.buf, blkcnt := s.blkcnt + 1, outlen := BitVec.ofNat 32 (16 * s.n)
          errCode := 0x00, abortReq := false, phase := .idle, done := true })
      ∧ (k ≠ s.n - 1 → t = { s with buf := t.buf, blkcnt := s.blkcnt + 1, phase := .ecbEnc (k + 1) }))
  ∧ cipher (.ofBytes fun _ => 0x10)
      (keyExpand ⟨⟨0x00, 0x01, 0x02, 0x03⟩, ⟨0x04, 0x05, 0x06, 0x07⟩, ⟨0x08, 0x09, 0x0a, 0x0b⟩, ⟨0x0c, 0x0d, 0x0e, 0x0f⟩⟩)
    = ⟨⟨0x95, 0x4f, 0x64, 0xf2⟩, ⟨0xe4, 0xe8, 0x6e, 0x9e⟩, ⟨0xee, 0x82, 0xd2, 0x02⟩, ⟨0x16, 0x68, 0x48, 0x99⟩⟩

/-- 44 R223: an undisturbed ECB_ENC whose checks pass computes EncryptECB of the input bytes as they were at acceptance
whenever the ranges do not overlap or DST ≤ SRC, in n + 1 engine steps, and writes no byte outside the output range. Undisturbed
is the model's empty list of events, with which the engine moves at every step (notes/assumptions/1.md). -/
def Obligations.EcbEncComputesEncryptEcb : Prop :=
  ∀ s : State, s.phase = .start 0x00000004 → s.events = [] → s.abortReq = false →
    s.src.toNat + s.len.toNat ≤ s.bufBytes → s.dst.toNat + 16 * (s.len.toNat / 16 + 1) ≤ s.bufBytes →
    ((s.dst.toNat + 16 * (s.len.toNat / 16 + 1) ≤ s.src.toNat ∨ s.src.toNat + s.len.toNat ≤ s.dst.toNat)
      ∨ s.dst.toNat ≤ s.src.toNat) →
    ∃ t, Sys2Proof.core.run (s.len.toNat / 16 + 2) s = .next t
      ∧ t.bytesAt s.dst.toNat (16 * (s.len.toNat / 16 + 1)) = encryptEcb (s.bytesAt s.src.toNat s.len.toNat) s.key
      ∧ s.SameBytesOutside t s.dst.toNat (16 * (s.len.toNat / 16 + 1))
      ∧ t.outlen = BitVec.ofNat 32 (16 * (s.len.toNat / 16 + 1))
      ∧ t.blkcnt = s.blkcnt + BitVec.ofNat 32 (s.len.toNat / 16 + 1) ∧ t.errCode = 0x00 ∧ t.phase = .idle
      ∧ t.done = true ∧ t.rk = keyExpand s.key ∧ t.ksValid = true ∧ t.blk = s.blk ∧ t.key = s.key

/-- 44 R225, 60 R284: the setup step of ECB_DEC, its checks in their order. -/
def Obligations.EcbDecSetup : Prop :=
  ∀ s : State,
    (s.len.toNat % 16 ≠ 0 → exec .ecbDec s = .next
      { s with errCode := 0x03, abortReq := false, phase := .idle, done := true })
    ∧ (s.len.toNat % 16 = 0 → s.src.toNat + s.len.toNat > s.bufBytes → exec .ecbDec s = .next
      { s with errCode := 0x07, abortReq := false, phase := .idle, done := true })
    ∧ (s.len.toNat = 0 → s.src.toNat + s.len.toNat ≤ s.bufBytes → exec .ecbDec s = .next
      { s with errCode := 0x04, abortReq := false, phase := .idle, done := true })
    ∧ (s.len.toNat % 16 = 0 → s.src.toNat + s.len.toNat ≤ s.bufBytes → s.len.toNat ≠ 0 → exec .ecbDec s = .next
      { s with
        n := s.len.toNat / 16, rk := keyExpand s.key, ksValid := true, phase := .ecbDecValidate })

/-- 44 R226, R233: the validation step of ECB_DEC decrypts the final block, checks its last byte only and then the output
range, and writes no byte of BUF. What a failed check leaves in the hidden W and padLen is not claimed. -/
def Obligations.EcbDecValidationStep : Prop :=
  ∀ s : State, s.phase = .ecbDecValidate → s.abortReq = false → s.n = s.len.toNat / 16 → s.len.toNat % 16 = 0 →
      0 < s.len.toNat → s.src.toNat + s.len.toNat ≤ s.bufBytes →
    ∃ w : Block, w = invCipher (.ofBytes fun i => s.buf.read (s.src.toNat + 16 * (s.n - 1) + i.val)) s.rk
      ∧ (((w.byte 15).toNat < 1 ∨ 16 < (w.byte 15).toNat ∨ s.len.toNat < (w.byte 15).toNat) →
          ∃ t, engineStep s = .next t ∧ t = { s with
            w := t.w, padLen := t.padLen, errCode := 0x04, abortReq := false, phase := .idle, done := true })
      ∧ (1 ≤ (w.byte 15).toNat → (w.byte 15).toNat ≤ 16 →
          s.dst.toNat + (s.len.toNat - (w.byte 15).toNat) > s.bufBytes →
          ∃ t, engineStep s = .next t ∧ t = { s with
            w := t.w, padLen := t.padLen, errCode := 0x07, abortReq := false, phase := .idle, done := true })
      ∧ (1 ≤ (w.byte 15).toNat → (w.byte 15).toNat ≤ 16 →
          s.dst.toNat + (s.len.toNat - (w.byte 15).toNat) ≤ s.bufBytes →
          engineStep s = .next { s with w := w, padLen := (w.byte 15).toNat, phase := .ecbDec 0 })

/-- 44 R227: block step k of ECB_DEC, 0 ≤ k ≤ n-2: the block it writes at DST + 16k and no other byte. -/
def Obligations.EcbDecBlockStep : Prop :=
  ∀ (s : State) (k : Nat), s.phase = .ecbDec k → s.abortReq = false → k + 2 ≤ s.n →
      s.src.toNat + 16 * s.n ≤ s.bufBytes → s.dst.toNat + 16 * (s.n - 1) ≤ s.bufBytes →
    ∃ t, engineStep s = .next t
      ∧ (∀ i : Fin 16, t.buf.read (s.dst.toNat + 16 * k + i.val)
          = (invCipher (.ofBytes fun j => s.buf.read (s.src.toNat + 16 * k + j.val)) s.rk).byte i)
      ∧ s.SameBytesOutside t (s.dst.toNat + 16 * k) 16
      ∧ t = { s with buf := t.buf, blkcnt := s.blkcnt + 1, phase := .ecbDec (k + 1) }

/-- 44 R228: the final step of ECB_DEC writes the first 16 - padLen bytes of W and no other byte, and completes. -/
def Obligations.EcbDecFinalStep : Prop :=
  (∀ (s : State), s.phase = .ecbDec (s.n - 1) → s.abortReq = false → 1 ≤ s.n → 1 ≤ s.padLen → s.padLen ≤ 16 →
      s.len.toNat = 16 * s.n → s.dst.toNat + (s.len.toNat - s.padLen) ≤ s.bufBytes →
    ∃ t, engineStep s = .next t
      ∧ (∀ i : Fin 16, i.val < 16 - s.padLen → t.buf.read (s.dst.toNat + 16 * (s.n - 1) + i.val) = s.w.byte i)
      ∧ s.SameBytesOutside t (s.dst.toNat + 16 * (s.n - 1)) (16 - s.padLen)
      ∧ t = { s with
          buf := t.buf, blkcnt := s.blkcnt + 1, outlen := BitVec.ofNat 32 (s.len.toNat - s.padLen)
          errCode := 0x00, abortReq := false, phase := .idle, done := true })
  ∧ (invCipher ⟨⟨0x95, 0x4f, 0x64, 0xf2⟩, ⟨0xe4, 0xe8, 0x6e, 0x9e⟩, ⟨0xee, 0x82, 0xd2, 0x02⟩, ⟨0x16, 0x68, 0x48, 0x99⟩⟩
      (keyExpand ⟨⟨0x00, 0x01, 0x02, 0x03⟩, ⟨0x04, 0x05, 0x06, 0x07⟩, ⟨0x08, 0x09, 0x0a, 0x0b⟩, ⟨0x0c, 0x0d, 0x0e, 0x0f⟩⟩)
      = .ofBytes fun _ => 0x10)

/-- 44 R232: an undisturbed ECB_DEC that passes its setup checks gives DecryptECB of the input bytes as they were at
acceptance: its error, with no byte written; or RANGE_ERROR when the output leaves BUF; or the plaintext at DST and no
other byte written, whenever the ranges do not overlap or DST ≤ SRC. Undisturbed is the model's empty list of events, with
which the engine moves at every step (notes/assumptions/1.md). -/
def Obligations.EcbDecComputesDecryptEcb : Prop :=
  ∀ s : State, s.phase = .start 0x00000005 → s.events = [] → s.abortReq = false → s.len.toNat % 16 = 0 →
    s.len.toNat ≠ 0 → s.src.toNat + s.len.toNat ≤ s.bufBytes →
    (∀ e, decryptEcb (s.bytesAt s.src.toNat s.len.toNat) s.key = .error e →
      ∃ t, Sys2Proof.core.run 2 s = .next t ∧ t.errCode = e.code ∧ t.buf = s.buf ∧ t.outlen = s.outlen
        ∧ t.blkcnt = s.blkcnt ∧ t.phase = .idle ∧ t.done = true ∧ t.rk = keyExpand s.key ∧ t.ksValid = true)
    ∧ ∀ p, decryptEcb (s.bytesAt s.src.toNat s.len.toNat) s.key = .ok p →
      (s.dst.toNat + p.length > s.bufBytes →
        ∃ t, Sys2Proof.core.run 2 s = .next t ∧ t.errCode = 0x07 ∧ t.buf = s.buf ∧ t.outlen = s.outlen
          ∧ t.blkcnt = s.blkcnt ∧ t.phase = .idle ∧ t.done = true)
      ∧ (s.dst.toNat + p.length ≤ s.bufBytes →
        ((p = [] ∨ s.dst.toNat + p.length ≤ s.src.toNat ∨ s.src.toNat + s.len.toNat ≤ s.dst.toNat)
          ∨ s.dst.toNat ≤ s.src.toNat) →
        ∃ t, Sys2Proof.core.run (s.len.toNat / 16 + 2) s = .next t ∧ t.bytesAt s.dst.toNat p.length = p
          ∧ s.SameBytesOutside t s.dst.toNat p.length ∧ t.outlen = BitVec.ofNat 32 p.length
          ∧ t.blkcnt = s.blkcnt + BitVec.ofNat 32 (s.len.toNat / 16) ∧ t.errCode = 0x00 ∧ t.phase = .idle
          ∧ t.done = true ∧ t.blk = s.blk ∧ t.key = s.key)

/-- 44 R230, 10_state R31: a host write to CTRL: IE is written, abort_req is set exactly when bit 1 is 1 while BUSY = 1 and
cur_cmd[7:0] is 0x04 or 0x05, the reserved bits are ignored, and nothing else changes, busy or not; CTRL reads IE alone, and
the request is visible in STATUS bit 4. That an accepted illegal word which ends in 04 or 05 counts too is the model's reading
of R230 (notes/assumptions/11.md). -/
def Obligations.CtrlWriteRequestsAbort : Prop :=
  (∀ (s : State) (v : Word),
    (hostWrite 0x0000 4 v s).1.busError = false
    ∧ (hostWrite 0x0000 4 v s).2 =
      { s with
        ie := v.getLsbD 0
        abortReq := s.abortReq
          || (v.getLsbD 1 && (decide (s.phase ≠ .idle)
            && (s.curCmd.extractLsb' 0 8 == 0x04 || s.curCmd.extractLsb' 0 8 == 0x05))) })
  ∧ (∀ s : State, hostRead 0x0000 4 s = (⟨if s.ie then 1 else 0, false⟩, s)
      ∧ (hostRead 0x0004 4 s).1.data.getLsbD 4 = s.abortReq)

/-- 44 R231: at a block boundary a pending abort ends the command with ABORTED (0x08) before the next step; BUF, RK and
KS_VALID keep what earlier steps gave them, OUTLEN is 0 and BLKCNT is the number of blocks written. -/
def Obligations.AbortEndsTheCommandAtABoundary : Prop :=
  ∀ s : State, s.Inv → s.abortReq = true →
    (s.phase = .ecbDecValidate ∨ ∃ k, s.phase = .ecbEnc k ∨ s.phase = .ecbDec k) →
    ∃ t, engineStep s = .next t
      ∧ t = { s with errCode := 0x08, abortReq := false, phase := .idle, done := true } ∧ t.outlen = 0
      ∧ (s.phase = .ecbDecValidate → t.blkcnt = 0)
      ∧ ∀ k, (s.phase = .ecbEnc k ∨ s.phase = .ecbDec k) → t.blkcnt.toNat = k

/-! ### Control (file 45) -/

/-- 45 R266: NOP. After acceptance it leaves ERR, OUTLEN and BLKCNT 0 and DONE 1; it does not clear CMD_DROPPED. -/
def Obligations.NopOnlyCompletes : Prop :=
  encode .nop = 0x00000000
  ∧ (∀ s : State, exec .nop s = .next
      { s with errCode := 0x00, abortReq := false, phase := .idle, done := true })
  ∧ ∀ s : State, ∃ t, exec .nop (accept 0x00000000 s) = .next t ∧ t.errCode = 0 ∧ t.outlen = 0 ∧ t.blkcnt = 0
      ∧ t.done = true ∧ t.buf = s.buf ∧ t.cmdDropped = s.cmdDropped

/-- 45 R261, R262: a host write to CMD: acceptance while idle, CMD_DROPPED and nothing else while BUSY = 1. The rest of the
environment's list and the response, with its data 0, are the model's own (notes/assumptions/1.md, 6.md, 21.md). -/
def Obligations.CmdWriteIsAcceptedOrDropped : Prop :=
  ∀ (s : State) (w : Word) (rest : List Event), s.events = .write 0x000C 4 w :: rest →
    (s.phase = .idle → step s = .next
      { s with
        curCmd := w, done := false, errCode := 0x00, outlen := 0, blkcnt := 0, abortReq := false, phase := .start w
        events := rest, responses := ⟨0, false⟩ :: s.responses })
    ∧ (s.phase ≠ .idle → step s = .next
      { s with cmdDropped := true, events := rest, responses := ⟨0, false⟩ :: s.responses })

/-! ### The host port (file 20) -/

/-- 20_memory R71, R73, R75: which accesses inside the 64 KiB window are legal; every other one gets the error response
and changes no state, and a read of it returns 0. -/
def Obligations.IllegalAccessesAreBusErrors : Prop :=
  ∀ (s : State) (off size : Nat) (v : Word), off ≤ 0xFFFF →
    (((size = 4 ∧ off % 4 = 0 ∧ (off < 0x0030 ∨ (0x0040 ≤ off ∧ off < 0x0060) ∨ (0x0100 ≤ off ∧ off < 0x01B0)
          ∨ (0x1000 ≤ off ∧ off + 4 ≤ 0x1000 + s.bufBytes)))
        ∨ (size = 1 ∧ 0x1000 ≤ off ∧ off < 0x1000 + s.bufBytes)) →
      (hostRead off size s).1.busError = false ∧ (hostWrite off size v s).1.busError = false)
    ∧ (¬((size = 4 ∧ off % 4 = 0 ∧ (off < 0x0030 ∨ (0x0040 ≤ off ∧ off < 0x0060) ∨ (0x0100 ≤ off ∧ off < 0x01B0)
          ∨ (0x1000 ≤ off ∧ off + 4 ≤ 0x1000 + s.bufBytes)))
        ∨ (size = 1 ∧ 0x1000 ≤ off ∧ off < 0x1000 + s.bufBytes)) →
      hostRead off size s = (⟨0, true⟩, s)
        ∧ (hostWrite off size v s).1.busError = true ∧ (hostWrite off size v s).2 = s)

/-- 20_memory R72: the little-endian lanes of a host word over KEY, BLK, RK and BUF, while idle. That a 1-byte read of BUF
answers the byte zero-extended is the model's choice (notes/assumptions/20.md). -/
def Obligations.HostWordsAreLittleEndian : Prop :=
  ∀ s : State, s.phase = .idle →
    (∀ k j : Fin 4,
      ((hostRead (0x0040 + 4 * k.val) 4 s).1.data).extractLsb' (8 * j.val) 8 = s.key.byte ⟨4 * k.val + j.val, by omega⟩
      ∧ ((hostRead (0x0050 + 4 * k.val) 4 s).1.data).extractLsb' (8 * j.val) 8
        = s.blk.byte ⟨4 * k.val + j.val, by omega⟩)
    ∧ (∀ (r : Fin 11) (k j : Fin 4),
      ((hostRead (0x0100 + 16 * r.val + 4 * k.val) 4 s).1.data).extractLsb' (8 * j.val) 8
        = (s.rk.get r).byte ⟨4 * k.val + j.val, by omega⟩)
    ∧ (∀ (a : Nat) (j : Fin 4), a % 4 = 0 → a + 4 ≤ s.bufBytes →
      ((hostRead (0x1000 + a) 4 s).1.data).extractLsb' (8 * j.val) 8 = s.buf.read (a + j.val))
    ∧ (∀ a : Nat, a < s.bufBytes → (hostRead (0x1000 + a) 1 s).1 = ⟨(s.buf.read a).setWidth 32, false⟩)

/-- 10_state R30, R31, R33..R39, R42, R43, 20_memory R72: the host's view while idle, at the offsets of the map. Every register
of the control range but STATUS reads its value, and a write to an operand register or to BUF sets that register or those bytes,
changes nothing else of the state, and is what the next read of the offset returns (GF_A and GF_B keep bits 7:0). That a 1-byte
write stores bits 7:0 of a wider value and a 1-byte read is zero-extended is the model's choice (notes/assumptions/20.md). -/
def Obligations.IdleWritesReadBack : Prop :=
  ∀ (s : State) (v : Word), s.phase = .idle →
    (hostRead 0x0000 4 s = (⟨if s.ie then 1 else 0, false⟩, s)
      ∧ hostRead 0x0008 4 s = (⟨s.errCode.setWidth 32, false⟩, s) ∧ hostRead 0x000C 4 s = (⟨s.curCmd, false⟩, s)
      ∧ hostRead 0x0010 4 s = (⟨s.src, false⟩, s) ∧ hostRead 0x0014 4 s = (⟨s.dst, false⟩, s)
      ∧ hostRead 0x0018 4 s = (⟨s.len, false⟩, s) ∧ hostRead 0x001C 4 s = (⟨s.outlen, false⟩, s)
      ∧ hostRead 0x0020 4 s = (⟨s.blkcnt, false⟩, s) ∧ hostRead 0x0024 4 s = (⟨s.gfA.setWidth 32, false⟩, s)
      ∧ hostRead 0x0028 4 s = (⟨s.gfB.setWidth 32, false⟩, s) ∧ hostRead 0x002C 4 s = (⟨s.gfR.setWidth 32, false⟩, s))
    ∧ ((hostWrite 0x0010 4 v s).2 = { s with src := v } ∧ (hostWrite 0x0014 4 v s).2 = { s with dst := v }
      ∧ (hostWrite 0x0018 4 v s).2 = { s with len := v }
      ∧ (hostWrite 0x0024 4 v s).2 = { s with gfA := v.extractLsb' 0 8 }
      ∧ (hostWrite 0x0028 4 v s).2 = { s with gfB := v.extractLsb' 0 8 })
    ∧ (∀ off ∈ [0x0010, 0x0014, 0x0018], (hostRead off 4 (hostWrite off 4 v s).2).1 = ⟨v, false⟩)
    ∧ (∀ off ∈ [0x0024, 0x0028], (hostRead off 4 (hostWrite off 4 v s).2).1 = ⟨v &&& 0xFF, false⟩)
    ∧ (∀ k : Fin 4, ∃ key : Block, (hostWrite (0x0040 + 4 * k.val) 4 v s).2 = { s with key := key }
      ∧ (∀ i : Fin 16, key.byte i
        = if i.val / 4 = k.val then v.extractLsb' (8 * (i.val % 4)) 8 else s.key.byte i)
      ∧ (hostRead (0x0040 + 4 * k.val) 4 { s with key := key }).1 = ⟨v, false⟩)
    ∧ (∀ k : Fin 4, ∃ blk : Block, (hostWrite (0x0050 + 4 * k.val) 4 v s).2 = { s with blk := blk }
      ∧ (∀ i : Fin 16, blk.byte i
        = if i.val / 4 = k.val then v.extractLsb' (8 * (i.val % 4)) 8 else s.blk.byte i)
      ∧ (hostRead (0x0050 + 4 * k.val) 4 { s with blk := blk }).1 = ⟨v, false⟩)
    ∧ (∀ a : Nat, a % 4 = 0 → a + 4 ≤ s.bufBytes →
      ∃ buf : Memory, (hostWrite (0x1000 + a) 4 v s).2 = { s with buf := buf }
        ∧ (∀ j : Fin 4, buf.read (a + j.val) = v.extractLsb' (8 * j.val) 8)
        ∧ s.SameBytesOutside { s with buf := buf } a 4
        ∧ (hostRead (0x1000 + a) 4 { s with buf := buf }).1 = ⟨v, false⟩)
    ∧ (∀ a : Nat, a < s.bufBytes →
      ∃ buf : Memory, (hostWrite (0x1000 + a) 1 v s).2 = { s with buf := buf }
        ∧ buf.read a = v.extractLsb' 0 8 ∧ s.SameBytesOutside { s with buf := buf } a 1
        ∧ (hostRead (0x1000 + a) 1 { s with buf := buf }).1 = ⟨v &&& 0xFF, false⟩)

/-- 20_memory R77: while BUSY = 1 a write reaches only CTRL, STATUS and CMD_DROPPED; reads of CTRL, STATUS, ERR, CMD, SRC,
DST, LEN, BLKCNT and KEY return the current value; reads of OUTLEN, GF_R, BLK, RK and BUF return a value the registers do
not determine: two busy states that differ in any of them, but agree on the model's counter of free values, answer alike. -/
def Obligations.BusyAccessesAreShieldedFromTheCommand : Prop :=
  (∀ (s : State) (off size : Nat) (v : Word), s.phase ≠ .idle → ¬(size = 4 ∧ (off = 0x0000 ∨ off = 0x0004 ∨ off = 0x000C)) →
    (hostWrite off size v s).2 = s)
  ∧ (∀ (s : State) (v : Word), s.phase ≠ .idle → (hostWrite 0x000C 4 v s).2 = { s with cmdDropped := true })
  ∧ (∀ (s : State) (r : Reg), s.phase ≠ .idle →
      (r = .ctrl ∨ r = .status ∨ r = .err ∨ r = .cmd ∨ r = .src ∨ r = .dst ∨ r = .len ∨ r = .blkcnt ∨ ∃ k, r = .key k) →
      hostRead r.offset 4 s = (⟨readReg r s, false⟩, s))
  ∧ (∀ (s s' : State) (off size : Nat), s.phase ≠ .idle → s'.phase ≠ .idle → s.bufBytes = s'.bufBytes →
      s.draws = s'.draws →
      (0x1000 ≤ off ∨ 0x0100 ≤ off ∧ off < 0x01B0 ∨ 0x0050 ≤ off ∧ off < 0x0060 ∨ off = 0x001C ∨ off = 0x002C) →
      (hostRead off size s).1 = (hostRead off size s').1)

/-- 20_memory section 2 (reads): a host read has no side effect on any register or byte; only the model's own counter of free
values may move, and only while BUSY = 1. -/
def Obligations.HostReadsHaveNoSideEffects : Prop :=
  ∀ (s : State) (off size : Nat),
    (hostRead off size s).2 = { s with draws := (hostRead off size s).2.draws }
    ∧ (s.phase = .idle → (hostRead off size s).2 = s)

/-- 10_state R30, R32, R33, 20_memory R74: STATUS and ERR as the host reads them at their offsets, the write-1-to-clear bits of
STATUS, and the read-only registers ERR, OUTLEN, BLKCNT, GF_R and RK, which ignore writes without a bus error, busy or not. -/
def Obligations.StatusBitsAndReadOnlyRegisters : Prop :=
  (∀ s : State,
    (hostRead 0x0004 4 s).1.busError = false ∧ (hostRead 0x0004 4 s).2 = s
    ∧ (∀ i : Nat, (hostRead 0x0004 4 s).1.data.getLsbD i
      = (match i with
        | 0 => decide (s.phase ≠ .idle)
        | 1 => s.done
        | 2 => s.ksValid
        | 3 => s.cmdDropped
        | 4 => s.abortReq
        | _ => false))
    ∧ hostRead 0x0008 4 s = (⟨s.errCode.setWidth 32, false⟩, s))
  ∧ (∀ (s : State) (v : Word), (hostWrite 0x0004 4 v s).1.busError = false
      ∧ (hostWrite 0x0004 4 v s).2 =
        { s with done := s.done && !v.getLsbD 1, cmdDropped := s.cmdDropped && !v.getLsbD 3 })
  ∧ (∀ (s : State) (v : Word) (off : Nat),
      (off = 0x0008 ∨ off = 0x001C ∨ off = 0x0020 ∨ off = 0x002C ∨ ∃ k : Fin 44, off = 0x0100 + 4 * k.val) →
      (hostWrite off 4 v s).1.busError = false ∧ (hostWrite off 4 v s).2 = s)

/-- 60 R290, R291: IRQ = IE & DONE, 0 after reset; a step raises it only by completing a command, or by setting IE while DONE
is already 1; a dropped command, an abort request and a bus error raise none. -/
def Obligations.InterruptFollowsCompletion : Prop :=
  (∀ s : State, s.irq = (s.ie && s.done)) ∧ State.reset.irq = false
  ∧ (∀ s t : State, step s = .next t → s.irq = false → t.irq = true →
      (s.phase ≠ .idle ∧ t.phase = .idle ∧ t.done = true ∧ t.ie = s.ie)
      ∨ (s.done = true ∧ s.ie = false ∧ ∃ v rest, s.events = .write 0x0000 4 v :: rest ∧ v.getLsbD 0 = true))
  ∧ (∀ s : State, (hostWrite 0x0004 4 0x00000002 s).2.irq = false)
  ∧ (∀ (s : State) (w : Word), s.phase = .idle → (hostWrite 0x000C 4 w s).2.irq = false)

/-! ### The whole machine -/

/-- Safety: the invariant of the block holds after reset. -/
def Obligations.ResetMeetsTheInvariant : Prop := State.reset.Inv

/-- Safety: every step, whatever the environment does, keeps the invariant: BUF stays in canonical form and inside its
bounds, RK is a schedule exactly when KS_VALID says so, ERR.CODE is a written code, OUTLEN is 0 after an error, and the
sequencer's state is one the rules of file 44 give. -/
def Obligations.EveryStepKeepsTheInvariant : Prop :=
  ∀ s t : State, s.Inv → step s = .next t → t.Inv

/-- 20_memory R78, 45 R267: from every state that meets the invariant the next step exists: no engine access leaves BUF, and
a running command always moves on. -/
def Obligations.NoStepFaults : Prop :=
  ∀ s : State, s.Inv → (∃ t, step s = .next t) ∧ (s.phase ≠ .idle → ∃ t, engineStep s = .next t ∧ t.phase ≠ s.phase)

/-- 45 R267: every command completes after finitely many engine steps: 1 for a non-ECB command, at most n + 1 for ECB_ENC and
n + 2 for ECB_DEC, with n ≤ BUF_BYTES/16 + 1 when the command gets past its setup. It does so undisturbed, and under any host
reads and writes (an abort request among them) between its engine steps: once the list of coming events holds as many engine
moves as the bound, the command has completed at some point of the list, with no more engine moves before it. Undisturbed is the
empty list, and that a list orders host and engine is the model's form of the interleaving (notes/assumptions/1.md). Reset
abandons a command (70 R321) and is no such event. -/
def Obligations.EveryCommandCompletes : Prop :=
  ∀ (s : State) (w : Word), s.Inv → s.phase = .start w →
    ∃ bound, 1 ≤ bound ∧ bound ≤ s.bufBytes / 16 + 3
      ∧ (w ≠ 0x00000004 → w ≠ 0x00000005 → bound = 1)
      ∧ (w = 0x00000004 ∨ w = 0x00000005 → bound ≤ s.len.toNat / 16 + 2)
      ∧ (s.events = [] → ∃ k, 1 ≤ k ∧ k ≤ bound
          ∧ ∃ t, Sys2Proof.core.run k s = .next t ∧ t.phase = .idle ∧ t.done = true)
      ∧ ((∀ e ∈ s.events, e = .engine ∨ (∃ off size, e = .read off size) ∨ ∃ off size v, e = .write off size v) →
          bound ≤ s.events.count .engine →
          ∃ k, 1 ≤ k ∧ k ≤ s.events.length ∧ (s.events.take k).count .engine ≤ bound
            ∧ ∃ t, Sys2Proof.core.run k s = .next t ∧ t.phase = .idle ∧ t.done = true)

/-- 60 R280, R282: at a completion each error code has the cause the table names, and no other code is written; in particular
INVALID_KEY_LENGTH and INVALID_BLOCK_LENGTH never are. -/
def Obligations.ErrorCodesHaveTheirCauses : Prop :=
  ∀ s t : State, s.phase ≠ .idle → engineStep s = .next t → t.phase = .idle →
    (t.errCode = 0x00 ∨ t.errCode = 0x03 ∨ t.errCode = 0x04 ∨ t.errCode = 0x05 ∨ t.errCode = 0x06 ∨ t.errCode = 0x07
      ∨ t.errCode = 0x08)
    ∧ (t.errCode = 0x03 → s.phase = .start 0x00000005 ∧ s.len.toNat % 16 ≠ 0)
    ∧ (t.errCode = 0x04 → (s.phase = .start 0x00000005 ∧ s.len.toNat = 0)
        ∨ (s.phase = .ecbDecValidate ∧ ∃ last : Byte,
            last = (invCipher (s.buf.readBlock (s.src.toNat + 16 * (s.n - 1))) s.rk).byte 15
            ∧ (last.toNat < 1 ∨ 16 < last.toNat ∨ s.len.toNat < last.toNat)))
    ∧ (t.errCode = 0x05 → ∃ w, s.phase = .start w ∧ ∀ i, decode w ≠ .ok i)
    ∧ (t.errCode = 0x06 → s.ksValid = false ∧ ∃ w i, s.phase = .start w ∧ decode w = .ok i
        ∧ (i = .encBlock ∨ i = .decBlock ∨ ∃ r, i = .addRoundKey r))
    ∧ (t.errCode = 0x07 →
        (s.phase = .start 0x00000004 ∧ (s.src.toNat + s.len.toNat > s.bufBytes
          ∨ s.dst.toNat + 16 * (s.len.toNat / 16 + 1) > s.bufBytes))
        ∨ (s.phase = .start 0x00000005 ∧ s.src.toNat + s.len.toNat > s.bufBytes)
        ∨ (s.phase = .ecbDecValidate ∧ ∃ last : Byte,
            last = (invCipher (s.buf.readBlock (s.src.toNat + 16 * (s.n - 1))) s.rk).byte 15
            ∧ s.dst.toNat + (s.len.toNat - last.toNat) > s.bufBytes))
    ∧ (t.errCode = 0x08 → s.abortReq = true ∧ ∀ w, s.phase ≠ .start w)

/-- 44 R234: `padLen > L` of R226 never holds: at the validation step LEN is at least 16, so the decrypted pad byte is refused
only for being below 1 or above 16, and in every later phase the accepted pad length lies in 1..16 and is at most LEN. -/
def Obligations.PadLengthNeverExceedsLength : Prop :=
  (∀ s : State, s.Inv → s.phase = .ecbDecValidate →
    16 ≤ s.len.toNat
    ∧ ∃ last : Byte, last = (invCipher (s.buf.readBlock (s.src.toNat + 16 * (s.n - 1))) s.rk).byte 15
      ∧ ¬(1 ≤ last.toNat ∧ last.toNat ≤ 16 ∧ s.len.toNat < last.toNat)
      ∧ ∀ t, engineStep s = .next t → t.errCode = 0x04 → last.toNat < 1 ∨ 16 < last.toNat)
  ∧ ∀ (s : State) (k : Nat), s.Inv → s.phase = .ecbDec k →
    16 ≤ s.len.toNat ∧ 1 ≤ s.padLen ∧ s.padLen ≤ 16 ∧ s.padLen ≤ s.len.toNat
end

