-- ==== Sys2Proof/Laws/Block.lean ====
section
/-!
SUPPORT. Bytes, entries and columns of a block: what each way of building one reads back as, and extensionality.
-/

namespace Sys2Proof

@[simp] theorem Col.row_ofRows (f : Fin 4 → Byte) (r : Fin 4) : (Col.ofRows f).row r = f r := by
  fin_cases r <;> rfl

@[simp] theorem Block.col_ofCols (f : Fin 4 → Col) (c : Fin 4) : (Block.ofCols f).col c = f c := by
  fin_cases c <;> rfl

@[simp] theorem Block.entry_ofMatrix (f : Fin 4 → Fin 4 → Byte) (r c : Fin 4) :
    (Block.ofMatrix f).entry r c = f r c := by
  simp [Block.entry, Block.ofMatrix]

@[simp] theorem Block.byte_ofBytes (f : Fin 16 → Byte) (i : Fin 16) : (Block.ofBytes f).byte i = f i := by
  fin_cases i <;> rfl

theorem Col.ext_row {a b : Col} (h : ∀ r, a.row r = b.row r) : a = b := by
  cases a
  cases b
  simpa [Col.row, Fin.forall_fin_succ] using h

theorem Block.ext_col {a b : Block} (h : ∀ c, a.col c = b.col c) : a = b := by
  cases a
  cases b
  simpa [Block.col, Fin.forall_fin_succ] using h

theorem Block.ext_entry {a b : Block} (h : ∀ r c, a.entry r c = b.entry r c) : a = b :=
  Block.ext_col fun c => Col.ext_row fun r => h r c

/-- 00_scope R14: byte r + 4c is the entry of row r and column c. -/
theorem Block.entry_eq_byte (b : Block) (r c : Fin 4) :
    b.entry r c = b.byte ⟨r.val + 4 * c.val, by omega⟩ := by
  fin_cases r <;> fin_cases c <;> rfl

theorem Block.ext_byte {a b : Block} (h : ∀ i, a.byte i = b.byte i) : a = b :=
  Block.ext_entry fun r c => by rw [Block.entry_eq_byte, Block.entry_eq_byte, h]

@[simp] theorem Block.ofBytes_byte (b : Block) : Block.ofBytes b.byte = b :=
  Block.ext_byte fun i => Block.byte_ofBytes _ i

@[simp] theorem Block.length_toList (b : Block) : b.toList.length = 16 := rfl

theorem Block.getElem?_toList (b : Block) (i : Fin 16) : b.toList[i.val]? = some (b.byte i) := by
  fin_cases i <;> rfl

@[simp] theorem Col.row_xor (a b : Col) (r : Fin 4) : (a.xor b).row r = a.row r ^^^ b.row r := by
  fin_cases r <;> rfl

@[simp] theorem Block.col_xor (a b : Block) (c : Fin 4) : (a.xor b).col c = (a.col c).xor (b.col c) := by
  fin_cases c <;> rfl

@[simp] theorem Block.entry_xor (a b : Block) (r c : Fin 4) :
    (a.xor b).entry r c = a.entry r c ^^^ b.entry r c := by
  simp [Block.entry]

@[simp] theorem Block.byte_xor (a b : Block) (i : Fin 16) : (a.xor b).byte i = a.byte i ^^^ b.byte i := by
  simp [Block.byte]

@[simp] theorem Block.col_setCol_same (b : Block) (c : Fin 4) (x : Col) : (b.setCol c x).col c = x := by
  fin_cases c <;> rfl

theorem Block.col_setCol_other (b : Block) {c d : Fin 4} (x : Col) (h : d ≠ c) :
    (b.setCol c x).col d = b.col d := by
  fin_cases c <;> fin_cases d <;> first | rfl | exact absurd rfl h

end Sys2Proof
end

