-- ==== Sys2Proof/Laws/Ecb.lean ====
section
/-!
SUPPORT. The functions of ECB mode (file 44, section 1) byte by byte: what a list mapped block by block holds, and the
padded input.
-/

namespace Sys2Proof.Machine

theorem padLength_pos (len : Nat) : 1 ≤ padLength len := by
  unfold padLength
  omega

theorem padLength_le (len : Nat) : padLength len ≤ 16 := by
  unfold padLength
  omega

/-- A padded input is a whole number of blocks. -/
theorem add_padLength (len : Nat) : len + padLength len = 16 * (len / 16 + 1) := by
  unfold padLength
  omega

@[simp] theorem length_pad (p : List Byte) : (pad p).length = 16 * (p.length / 16 + 1) := by
  rw [pad, List.length_append, List.length_replicate, add_padLength]

theorem getElem?_pad_left (p : List Byte) {j : Nat} (h : j < p.length) : (pad p)[j]? = p[j]? := by
  rw [pad, List.getElem?_append_left h]

theorem getElem?_pad_right (p : List Byte) {j : Nat} (h : p.length ≤ j) (h' : j < 16 * (p.length / 16 + 1)) :
    (pad p)[j]? = some (BitVec.ofNat 8 (padLength p.length)) := by
  have := add_padLength p.length
  rw [pad, List.getElem?_append_right h, List.getElem?_replicate, if_pos (by omega)]

theorem length_flatMap_blocks (f : Nat → Block) (n : Nat) :
    ((List.range n).flatMap fun k => (f k).toList).length = 16 * n := by
  induction n with
  | zero => rfl
  | succ n ih =>
    rw [List.range_succ, List.flatMap_append, List.length_append, ih]
    simp
    omega

theorem getElem?_flatMap_blocks (f : Nat → Block) {n k : Nat} (hk : k < n) (i : Fin 16) :
    ((List.range n).flatMap fun k => (f k).toList)[16 * k + i.val]? = some ((f k).byte i) := by
  induction n with
  | zero => omega
  | succ n ih =>
    have hl := length_flatMap_blocks f n
    rw [List.range_succ, List.flatMap_append]
    by_cases h : k < n
    · rw [List.getElem?_append_left (by omega), ih h]
    · obtain rfl : k = n := by omega
      rw [List.getElem?_append_right (by omega), hl, Nat.add_sub_cancel_left]
      simpa using Block.getElem?_toList (f k) i

@[simp] theorem length_mapBlocks (f : Block → Block) (q : List Byte) :
    (mapBlocks f q).length = 16 * (q.length / 16) :=
  length_flatMap_blocks _ _

/-- Byte i of block k of the result is byte i of `f` of block k of the input. -/
theorem getElem?_mapBlocks (f : Block → Block) (q : List Byte) {k : Nat} (hk : k < q.length / 16) (i : Fin 16) :
    (mapBlocks f q)[16 * k + i.val]? = some ((f (blockAt q k)).byte i) :=
  getElem?_flatMap_blocks (fun k => f (blockAt q k)) hk i

theorem byte_blockAt (q : List Byte) (k : Nat) (i : Fin 16) : (blockAt q k).byte i = q.getD (16 * k + i.val) 0 := by
  simp [blockAt]

end Sys2Proof.Machine
end

