-- ==== Sys2Proof/Laws/Memory.lean ====
section
/-!
SUPPORT. BUF: a read after a write to the same address gives the value written, a write leaves every other address
alone, and every memory operation keeps the canonical form and the bounds.
-/

namespace Sys2Proof.Machine

@[simp] theorem Memory.find_write_same (m : Memory) (a : Nat) (x : Byte) : (m.write a x).find a = some x := by
  induction m with
  | nil => simp [Memory.write, Memory.find]
  | cons c m ih =>
    obtain ⟨k, y⟩ := c
    simp only [Memory.write]
    split
    · simp [Memory.find]
    · split
      · simp [Memory.find]
      · simp [Memory.find, *]

theorem Memory.find_write_other (m : Memory) {a b : Nat} (x : Byte) (h : b ≠ a) :
    (m.write a x).find b = m.find b := by
  induction m with
  | nil => simp [Memory.write, Memory.find, h]
  | cons c m ih =>
    obtain ⟨k, y⟩ := c
    simp only [Memory.write]
    split
    · simp [Memory.find, h]
    · split
      · rename_i hk
        subst hk
        simp [Memory.find, h]
      · simp [Memory.find, ih]

@[simp] theorem Memory.read_write_same (m : Memory) (a : Nat) (x : Byte) : (m.write a x).read a = x := by
  simp [Memory.read]

theorem Memory.read_write_other (m : Memory) {a b : Nat} (x : Byte) (h : b ≠ a) :
    (m.write a x).read b = m.read b := by
  simp [Memory.read, Memory.find_write_other m x h]

theorem Memory.read_writeBytes_outside (m : Memory) (a : Nat) (xs : List Byte) {b : Nat}
    (h : b < a ∨ a + xs.length ≤ b) : (m.writeBytes a xs).read b = m.read b := by
  induction xs generalizing m a with
  | nil => rfl
  | cons x xs ih =>
    simp only [List.length_cons] at h
    rw [Memory.writeBytes, ih _ _ (by omega), Memory.read_write_other _ _ (by omega)]

theorem Memory.read_writeBytes_inside (m : Memory) (a : Nat) (xs : List Byte) {j : Nat} {x : Byte}
    (h : xs[j]? = some x) : (m.writeBytes a xs).read (a + j) = x := by
  induction xs generalizing m a j with
  | nil => simp at h
  | cons y xs ih =>
    cases j with
    | zero =>
      obtain rfl : y = x := by simpa using h
      rw [Memory.writeBytes, Memory.read_writeBytes_outside _ _ _ (by omega), Nat.add_zero,
        Memory.read_write_same]
    | succ j =>
      have := ih (m.write a y) (a + 1) (by simpa using h)
      rwa [show a + (j + 1) = a + 1 + j by omega]

/-- 20_memory R79: a block written at `a` reads back byte by byte. -/
theorem Memory.read_writeBlock (m : Memory) (a : Nat) (b : Block) (i : Fin 16) :
    (m.writeBytes a b.toList).read (a + i.val) = b.byte i :=
  Memory.read_writeBytes_inside _ _ _ (Block.getElem?_toList b i)

@[simp] theorem Memory.length_readBytes (m : Memory) (a n : Nat) : (m.readBytes a n).length = n := by
  induction n generalizing a with
  | zero => rfl
  | succ n ih => simp [Memory.readBytes, ih]

theorem Memory.getElem?_readBytes (m : Memory) (a n : Nat) {j : Nat} (h : j < n) :
    (m.readBytes a n)[j]? = some (m.read (a + j)) := by
  induction n generalizing a j with
  | zero => omega
  | succ n ih =>
    cases j with
    | zero => simp [Memory.readBytes]
    | succ j => simp [Memory.readBytes, ih (a + 1) (show j < n by omega), Nat.add_assoc, Nat.add_comm 1 j]

theorem Memory.readBytes_eq {m : Memory} {a n : Nat} {xs : List Byte} (hlen : xs.length = n)
    (h : ∀ j < n, xs[j]? = some (m.read (a + j))) : m.readBytes a n = xs := by
  apply List.ext_getElem?
  intro j
  by_cases hj : j < n
  · rw [Memory.getElem?_readBytes _ _ _ hj, h j hj]
  · rw [List.getElem?_eq_none (by simpa using hj), List.getElem?_eq_none (by omega)]

/-- In canonical form the tail's addresses lie above the head's. -/
theorem Memory.wf_cons {a : Nat} {x : Byte} {m : Memory} :
    Memory.wf ((a, x) :: m) = true ↔ (∀ c ∈ m.head?, a < c.1) ∧ m.wf = true := by
  cases m with
  | nil => simp [Memory.wf]
  | cons c m => simp [Memory.wf]

theorem Memory.head?_write (m : Memory) (a : Nat) (x : Byte) :
    ∀ c ∈ (m.write a x).head?, c.1 = a ∨ ∃ d ∈ m.head?, c.1 = d.1 := by
  cases m with
  | nil => simp [Memory.write]
  | cons d m =>
    obtain ⟨k, y⟩ := d
    simp only [Memory.write]
    split
    · simp
    · split
      · simp
      · simp

theorem Memory.wf_write {m : Memory} (a : Nat) (x : Byte) (h : m.wf = true) : (m.write a x).wf = true := by
  induction m with
  | nil => rfl
  | cons c m ih =>
    obtain ⟨k, y⟩ := c
    have hc := Memory.wf_cons.1 h
    simp only [Memory.write]
    split
    · exact Memory.wf_cons.2 ⟨by simpa, h⟩
    · split
      · rename_i hk
        subst hk
        exact Memory.wf_cons.2 hc
      · refine Memory.wf_cons.2 ⟨fun d hd => ?_, ih hc.2⟩
        rcases Memory.head?_write m a x d hd with hda | ⟨e, he, hde⟩
        · omega
        · rw [hde]
          exact hc.1 e he

theorem Memory.wf_writeBytes {m : Memory} (a : Nat) (xs : List Byte) (h : m.wf = true) :
    (m.writeBytes a xs).wf = true := by
  induction xs generalizing m a with
  | nil => exact h
  | cons x xs ih => exact ih _ (Memory.wf_write a x h)

theorem Memory.inside_write {m : Memory} {limit a : Nat} (x : Byte) (h : m.inside limit = true) (ha : a < limit) :
    (m.write a x).inside limit = true := by
  induction m with
  | nil => simpa [Memory.write, Memory.inside] using ha
  | cons c m ih =>
    obtain ⟨k, y⟩ := c
    simp only [Memory.inside, List.all_cons, Bool.and_eq_true, decide_eq_true_eq] at h ih
    simp only [Memory.write]
    split
    · simpa [Memory.inside, ha] using h
    · split
      · simpa [Memory.inside, ha] using h.2
      · simpa [Memory.inside, h.1] using ih h.2

theorem Memory.inside_writeBytes {m : Memory} {limit a : Nat} (xs : List Byte) (h : m.inside limit = true)
    (ha : xs = [] ∨ a + xs.length ≤ limit) : (m.writeBytes a xs).inside limit = true := by
  induction xs generalizing m a with
  | nil => exact h
  | cons x xs ih =>
    simp only [List.length_cons, reduceCtorEq, false_or] at ha
    exact ih (Memory.inside_write x h (by omega)) (.inr (by omega))

/-- Two memories in canonical form that hold the same written bytes are the same list. -/
theorem Memory.ext_find {m m' : Memory} (h : m.wf = true) (h' : m'.wf = true)
    (hf : ∀ a, m.find a = m'.find a) : m = m' := by
  have below : ∀ {k : Nat} {m : Memory}, m.wf = true → (∀ c ∈ m.head?, k < c.1) → ∀ a ≤ k, m.find a = none := by
    intro k m
    induction m generalizing k with
    | nil => intros; rfl
    | cons c m ih =>
      intro hw hh a ha
      have := hh c (by simp)
      obtain ⟨b, y⟩ := c
      have hc := Memory.wf_cons.1 hw
      rw [Memory.find, if_neg (by simp at this; omega)]
      exact ih hc.2 hc.1 a (by simp at this; omega)
  induction m generalizing m' with
  | nil =>
    cases m' with
    | nil => rfl
    | cons c m' => simpa [Memory.find] using hf c.1
  | cons c m ih =>
    obtain ⟨a, x⟩ := c
    cases m' with
    | nil => simpa [Memory.find] using hf a
    | cons d m' =>
      obtain ⟨b, y⟩ := d
      have hc := Memory.wf_cons.1 h
      have hd := Memory.wf_cons.1 h'
      obtain rfl : a = b := by
        rcases Nat.lt_trichotomy a b with hlt | heq | hgt
        · have h1 := hf a
          rw [Memory.find, if_pos rfl, Memory.find, if_neg (by omega), below hd.2 hd.1 a (by omega)] at h1
          simp at h1
        · exact heq
        · have h1 := hf b
          rw [Memory.find, if_neg (by omega), below hc.2 hc.1 b (by omega), Memory.find, if_pos rfl] at h1
          simp at h1
      have hx := hf a
      simp only [Memory.find, if_true, Option.some.injEq] at hx
      rw [hx, ih hc.2 hd.2 fun k => ?_]
      by_cases hk : k ≤ a
      · rw [below hc.2 hc.1 k hk, below hd.2 hd.1 k hk]
      · have := hf k
        rwa [Memory.find, if_neg (by omega), Memory.find, if_neg (by omega)] at this

end Sys2Proof.Machine
end

