-- ==== Sys2Proof/Laws/State.lean ====
section
/-!
SUPPORT. One lemma for each field of State and each shared update, so that no proof unfolds a record update.
-/

namespace Sys2Proof.Machine

/-! Completion (45 R263). -/

@[simp] theorem finish_bufBytes (e : ErrKind) (s : State) : (finish e s).bufBytes = s.bufBytes := rfl
@[simp] theorem finish_ie (e : ErrKind) (s : State) : (finish e s).ie = s.ie := rfl
@[simp] theorem finish_done (e : ErrKind) (s : State) : (finish e s).done = true := rfl
@[simp] theorem finish_ksValid (e : ErrKind) (s : State) : (finish e s).ksValid = s.ksValid := rfl
@[simp] theorem finish_cmdDropped (e : ErrKind) (s : State) : (finish e s).cmdDropped = s.cmdDropped := rfl
@[simp] theorem finish_abortReq (e : ErrKind) (s : State) : (finish e s).abortReq = false := rfl
@[simp] theorem finish_errCode (e : ErrKind) (s : State) : (finish e s).errCode = e.code := rfl
@[simp] theorem finish_curCmd (e : ErrKind) (s : State) : (finish e s).curCmd = s.curCmd := rfl
@[simp] theorem finish_src (e : ErrKind) (s : State) : (finish e s).src = s.src := rfl
@[simp] theorem finish_dst (e : ErrKind) (s : State) : (finish e s).dst = s.dst := rfl
@[simp] theorem finish_len (e : ErrKind) (s : State) : (finish e s).len = s.len := rfl
@[simp] theorem finish_outlen (e : ErrKind) (s : State) : (finish e s).outlen = s.outlen := rfl
@[simp] theorem finish_blkcnt (e : ErrKind) (s : State) : (finish e s).blkcnt = s.blkcnt := rfl
@[simp] theorem finish_gfA (e : ErrKind) (s : State) : (finish e s).gfA = s.gfA := rfl
@[simp] theorem finish_gfB (e : ErrKind) (s : State) : (finish e s).gfB = s.gfB := rfl
@[simp] theorem finish_gfR (e : ErrKind) (s : State) : (finish e s).gfR = s.gfR := rfl
@[simp] theorem finish_key (e : ErrKind) (s : State) : (finish e s).key = s.key := rfl
@[simp] theorem finish_blk (e : ErrKind) (s : State) : (finish e s).blk = s.blk := rfl
@[simp] theorem finish_rk (e : ErrKind) (s : State) : (finish e s).rk = s.rk := rfl
@[simp] theorem finish_buf (e : ErrKind) (s : State) : (finish e s).buf = s.buf := rfl
@[simp] theorem finish_phase (e : ErrKind) (s : State) : (finish e s).phase = .idle := rfl
@[simp] theorem finish_n (e : ErrKind) (s : State) : (finish e s).n = s.n := rfl
@[simp] theorem finish_padLen (e : ErrKind) (s : State) : (finish e s).padLen = s.padLen := rfl
@[simp] theorem finish_w (e : ErrKind) (s : State) : (finish e s).w = s.w := rfl
@[simp] theorem finish_events (e : ErrKind) (s : State) : (finish e s).events = s.events := rfl
@[simp] theorem finish_responses (e : ErrKind) (s : State) : (finish e s).responses = s.responses := rfl
@[simp] theorem finish_draws (e : ErrKind) (s : State) : (finish e s).draws = s.draws := rfl

/-! Acceptance (45 R261). -/

@[simp] theorem accept_bufBytes (w : Word) (s : State) : (accept w s).bufBytes = s.bufBytes := rfl
@[simp] theorem accept_ie (w : Word) (s : State) : (accept w s).ie = s.ie := rfl
@[simp] theorem accept_done (w : Word) (s : State) : (accept w s).done = false := rfl
@[simp] theorem accept_ksValid (w : Word) (s : State) : (accept w s).ksValid = s.ksValid := rfl
@[simp] theorem accept_cmdDropped (w : Word) (s : State) : (accept w s).cmdDropped = s.cmdDropped := rfl
@[simp] theorem accept_abortReq (w : Word) (s : State) : (accept w s).abortReq = false := rfl
@[simp] theorem accept_errCode (w : Word) (s : State) : (accept w s).errCode = 0 := rfl
@[simp] theorem accept_curCmd (w : Word) (s : State) : (accept w s).curCmd = w := rfl
@[simp] theorem accept_src (w : Word) (s : State) : (accept w s).src = s.src := rfl
@[simp] theorem accept_dst (w : Word) (s : State) : (accept w s).dst = s.dst := rfl
@[simp] theorem accept_len (w : Word) (s : State) : (accept w s).len = s.len := rfl
@[simp] theorem accept_outlen (w : Word) (s : State) : (accept w s).outlen = 0 := rfl
@[simp] theorem accept_blkcnt (w : Word) (s : State) : (accept w s).blkcnt = 0 := rfl
@[simp] theorem accept_gfA (w : Word) (s : State) : (accept w s).gfA = s.gfA := rfl
@[simp] theorem accept_gfB (w : Word) (s : State) : (accept w s).gfB = s.gfB := rfl
@[simp] theorem accept_gfR (w : Word) (s : State) : (accept w s).gfR = s.gfR := rfl
@[simp] theorem accept_key (w : Word) (s : State) : (accept w s).key = s.key := rfl
@[simp] theorem accept_blk (w : Word) (s : State) : (accept w s).blk = s.blk := rfl
@[simp] theorem accept_rk (w : Word) (s : State) : (accept w s).rk = s.rk := rfl
@[simp] theorem accept_buf (w : Word) (s : State) : (accept w s).buf = s.buf := rfl
@[simp] theorem accept_phase (w : Word) (s : State) : (accept w s).phase = .start w := rfl
@[simp] theorem accept_n (w : Word) (s : State) : (accept w s).n = s.n := rfl
@[simp] theorem accept_padLen (w : Word) (s : State) : (accept w s).padLen = s.padLen := rfl
@[simp] theorem accept_w (w : Word) (s : State) : (accept w s).w = s.w := rfl
@[simp] theorem accept_events (w : Word) (s : State) : (accept w s).events = s.events := rfl
@[simp] theorem accept_responses (w : Word) (s : State) : (accept w s).responses = s.responses := rfl
@[simp] theorem accept_draws (w : Word) (s : State) : (accept w s).draws = s.draws := rfl

/-! Writing the schedule (42 R180). -/

@[simp] theorem loadSchedule_bufBytes (s : State) : (loadSchedule s).bufBytes = s.bufBytes := rfl
@[simp] theorem loadSchedule_ie (s : State) : (loadSchedule s).ie = s.ie := rfl
@[simp] theorem loadSchedule_done (s : State) : (loadSchedule s).done = s.done := rfl
@[simp] theorem loadSchedule_ksValid (s : State) : (loadSchedule s).ksValid = true := rfl
@[simp] theorem loadSchedule_cmdDropped (s : State) : (loadSchedule s).cmdDropped = s.cmdDropped := rfl
@[simp] theorem loadSchedule_abortReq (s : State) : (loadSchedule s).abortReq = s.abortReq := rfl
@[simp] theorem loadSchedule_errCode (s : State) : (loadSchedule s).errCode = s.errCode := rfl
@[simp] theorem loadSchedule_curCmd (s : State) : (loadSchedule s).curCmd = s.curCmd := rfl
@[simp] theorem loadSchedule_src (s : State) : (loadSchedule s).src = s.src := rfl
@[simp] theorem loadSchedule_dst (s : State) : (loadSchedule s).dst = s.dst := rfl
@[simp] theorem loadSchedule_len (s : State) : (loadSchedule s).len = s.len := rfl
@[simp] theorem loadSchedule_outlen (s : State) : (loadSchedule s).outlen = s.outlen := rfl
@[simp] theorem loadSchedule_blkcnt (s : State) : (loadSchedule s).blkcnt = s.blkcnt := rfl
@[simp] theorem loadSchedule_gfA (s : State) : (loadSchedule s).gfA = s.gfA := rfl
@[simp] theorem loadSchedule_gfB (s : State) : (loadSchedule s).gfB = s.gfB := rfl
@[simp] theorem loadSchedule_gfR (s : State) : (loadSchedule s).gfR = s.gfR := rfl
@[simp] theorem loadSchedule_key (s : State) : (loadSchedule s).key = s.key := rfl
@[simp] theorem loadSchedule_blk (s : State) : (loadSchedule s).blk = s.blk := rfl
@[simp] theorem loadSchedule_rk (s : State) : (loadSchedule s).rk = keyExpand s.key := rfl
@[simp] theorem loadSchedule_buf (s : State) : (loadSchedule s).buf = s.buf := rfl
@[simp] theorem loadSchedule_phase (s : State) : (loadSchedule s).phase = s.phase := rfl
@[simp] theorem loadSchedule_n (s : State) : (loadSchedule s).n = s.n := rfl
@[simp] theorem loadSchedule_padLen (s : State) : (loadSchedule s).padLen = s.padLen := rfl
@[simp] theorem loadSchedule_w (s : State) : (loadSchedule s).w = s.w := rfl
@[simp] theorem loadSchedule_events (s : State) : (loadSchedule s).events = s.events := rfl
@[simp] theorem loadSchedule_responses (s : State) : (loadSchedule s).responses = s.responses := rfl
@[simp] theorem loadSchedule_draws (s : State) : (loadSchedule s).draws = s.draws := rfl

/-! Clearing DONE (60 R288). -/

@[simp] theorem acknowledge_bufBytes (s : State) : (acknowledge s).bufBytes = s.bufBytes := rfl
@[simp] theorem acknowledge_ie (s : State) : (acknowledge s).ie = s.ie := rfl
@[simp] theorem acknowledge_done (s : State) : (acknowledge s).done = false := rfl
@[simp] theorem acknowledge_ksValid (s : State) : (acknowledge s).ksValid = s.ksValid := rfl
@[simp] theorem acknowledge_cmdDropped (s : State) : (acknowledge s).cmdDropped = s.cmdDropped := rfl
@[simp] theorem acknowledge_abortReq (s : State) : (acknowledge s).abortReq = s.abortReq := rfl
@[simp] theorem acknowledge_errCode (s : State) : (acknowledge s).errCode = s.errCode := rfl
@[simp] theorem acknowledge_curCmd (s : State) : (acknowledge s).curCmd = s.curCmd := rfl
@[simp] theorem acknowledge_src (s : State) : (acknowledge s).src = s.src := rfl
@[simp] theorem acknowledge_dst (s : State) : (acknowledge s).dst = s.dst := rfl
@[simp] theorem acknowledge_len (s : State) : (acknowledge s).len = s.len := rfl
@[simp] theorem acknowledge_outlen (s : State) : (acknowledge s).outlen = s.outlen := rfl
@[simp] theorem acknowledge_blkcnt (s : State) : (acknowledge s).blkcnt = s.blkcnt := rfl
@[simp] theorem acknowledge_gfA (s : State) : (acknowledge s).gfA = s.gfA := rfl
@[simp] theorem acknowledge_gfB (s : State) : (acknowledge s).gfB = s.gfB := rfl
@[simp] theorem acknowledge_gfR (s : State) : (acknowledge s).gfR = s.gfR := rfl
@[simp] theorem acknowledge_key (s : State) : (acknowledge s).key = s.key := rfl
@[simp] theorem acknowledge_blk (s : State) : (acknowledge s).blk = s.blk := rfl
@[simp] theorem acknowledge_rk (s : State) : (acknowledge s).rk = s.rk := rfl
@[simp] theorem acknowledge_buf (s : State) : (acknowledge s).buf = s.buf := rfl
@[simp] theorem acknowledge_phase (s : State) : (acknowledge s).phase = s.phase := rfl
@[simp] theorem acknowledge_n (s : State) : (acknowledge s).n = s.n := rfl
@[simp] theorem acknowledge_padLen (s : State) : (acknowledge s).padLen = s.padLen := rfl
@[simp] theorem acknowledge_w (s : State) : (acknowledge s).w = s.w := rfl
@[simp] theorem acknowledge_events (s : State) : (acknowledge s).events = s.events := rfl
@[simp] theorem acknowledge_responses (s : State) : (acknowledge s).responses = s.responses := rfl
@[simp] theorem acknowledge_draws (s : State) : (acknowledge s).draws = s.draws := rfl

/-! The writes of an ECB_ENC block step (44 R222). -/

@[simp] theorem encWrite_bufBytes (s : State) (k : Nat) : (encWrite s k).bufBytes = s.bufBytes := rfl
@[simp] theorem encWrite_ie (s : State) (k : Nat) : (encWrite s k).ie = s.ie := rfl
@[simp] theorem encWrite_done (s : State) (k : Nat) : (encWrite s k).done = s.done := rfl
@[simp] theorem encWrite_ksValid (s : State) (k : Nat) : (encWrite s k).ksValid = s.ksValid := rfl
@[simp] theorem encWrite_cmdDropped (s : State) (k : Nat) : (encWrite s k).cmdDropped = s.cmdDropped := rfl
@[simp] theorem encWrite_abortReq (s : State) (k : Nat) : (encWrite s k).abortReq = s.abortReq := rfl
@[simp] theorem encWrite_errCode (s : State) (k : Nat) : (encWrite s k).errCode = s.errCode := rfl
@[simp] theorem encWrite_curCmd (s : State) (k : Nat) : (encWrite s k).curCmd = s.curCmd := rfl
@[simp] theorem encWrite_src (s : State) (k : Nat) : (encWrite s k).src = s.src := rfl
@[simp] theorem encWrite_dst (s : State) (k : Nat) : (encWrite s k).dst = s.dst := rfl
@[simp] theorem encWrite_len (s : State) (k : Nat) : (encWrite s k).len = s.len := rfl
@[simp] theorem encWrite_outlen (s : State) (k : Nat) : (encWrite s k).outlen = s.outlen := rfl
@[simp] theorem encWrite_blkcnt (s : State) (k : Nat) : (encWrite s k).blkcnt = s.blkcnt + 1 := rfl
@[simp] theorem encWrite_gfA (s : State) (k : Nat) : (encWrite s k).gfA = s.gfA := rfl
@[simp] theorem encWrite_gfB (s : State) (k : Nat) : (encWrite s k).gfB = s.gfB := rfl
@[simp] theorem encWrite_gfR (s : State) (k : Nat) : (encWrite s k).gfR = s.gfR := rfl
@[simp] theorem encWrite_key (s : State) (k : Nat) : (encWrite s k).key = s.key := rfl
@[simp] theorem encWrite_blk (s : State) (k : Nat) : (encWrite s k).blk = s.blk := rfl
@[simp] theorem encWrite_rk (s : State) (k : Nat) : (encWrite s k).rk = s.rk := rfl
@[simp] theorem encWrite_buf (s : State) (k : Nat) : (encWrite s k).buf = s.buf.writeBytes (s.dst.toNat + 16 * k) (cipher (encInputBlock s k) s.rk).toList := rfl
@[simp] theorem encWrite_phase (s : State) (k : Nat) : (encWrite s k).phase = s.phase := rfl
@[simp] theorem encWrite_n (s : State) (k : Nat) : (encWrite s k).n = s.n := rfl
@[simp] theorem encWrite_padLen (s : State) (k : Nat) : (encWrite s k).padLen = s.padLen := rfl
@[simp] theorem encWrite_w (s : State) (k : Nat) : (encWrite s k).w = s.w := rfl
@[simp] theorem encWrite_events (s : State) (k : Nat) : (encWrite s k).events = s.events := rfl
@[simp] theorem encWrite_responses (s : State) (k : Nat) : (encWrite s k).responses = s.responses := rfl
@[simp] theorem encWrite_draws (s : State) (k : Nat) : (encWrite s k).draws = s.draws := rfl

/-! The engine's move put first. -/

@[simp] theorem engineNext_bufBytes (s : State) : (engineNext s).bufBytes = s.bufBytes := rfl
@[simp] theorem engineNext_ie (s : State) : (engineNext s).ie = s.ie := rfl
@[simp] theorem engineNext_done (s : State) : (engineNext s).done = s.done := rfl
@[simp] theorem engineNext_ksValid (s : State) : (engineNext s).ksValid = s.ksValid := rfl
@[simp] theorem engineNext_cmdDropped (s : State) : (engineNext s).cmdDropped = s.cmdDropped := rfl
@[simp] theorem engineNext_abortReq (s : State) : (engineNext s).abortReq = s.abortReq := rfl
@[simp] theorem engineNext_errCode (s : State) : (engineNext s).errCode = s.errCode := rfl
@[simp] theorem engineNext_curCmd (s : State) : (engineNext s).curCmd = s.curCmd := rfl
@[simp] theorem engineNext_src (s : State) : (engineNext s).src = s.src := rfl
@[simp] theorem engineNext_dst (s : State) : (engineNext s).dst = s.dst := rfl
@[simp] theorem engineNext_len (s : State) : (engineNext s).len = s.len := rfl
@[simp] theorem engineNext_outlen (s : State) : (engineNext s).outlen = s.outlen := rfl
@[simp] theorem engineNext_blkcnt (s : State) : (engineNext s).blkcnt = s.blkcnt := rfl
@[simp] theorem engineNext_gfA (s : State) : (engineNext s).gfA = s.gfA := rfl
@[simp] theorem engineNext_gfB (s : State) : (engineNext s).gfB = s.gfB := rfl
@[simp] theorem engineNext_gfR (s : State) : (engineNext s).gfR = s.gfR := rfl
@[simp] theorem engineNext_key (s : State) : (engineNext s).key = s.key := rfl
@[simp] theorem engineNext_blk (s : State) : (engineNext s).blk = s.blk := rfl
@[simp] theorem engineNext_rk (s : State) : (engineNext s).rk = s.rk := rfl
@[simp] theorem engineNext_buf (s : State) : (engineNext s).buf = s.buf := rfl
@[simp] theorem engineNext_phase (s : State) : (engineNext s).phase = s.phase := rfl
@[simp] theorem engineNext_n (s : State) : (engineNext s).n = s.n := rfl
@[simp] theorem engineNext_padLen (s : State) : (engineNext s).padLen = s.padLen := rfl
@[simp] theorem engineNext_w (s : State) : (engineNext s).w = s.w := rfl
@[simp] theorem engineNext_events (s : State) : (engineNext s).events = .engine :: s.events := rfl
@[simp] theorem engineNext_responses (s : State) : (engineNext s).responses = s.responses := rfl
@[simp] theorem engineNext_draws (s : State) : (engineNext s).draws = s.draws := rfl

/-! The response to a host access. -/

@[simp] theorem respond_bufBytes (p : Response × State) : (respond p).bufBytes = p.2.bufBytes := rfl
@[simp] theorem respond_ie (p : Response × State) : (respond p).ie = p.2.ie := rfl
@[simp] theorem respond_done (p : Response × State) : (respond p).done = p.2.done := rfl
@[simp] theorem respond_ksValid (p : Response × State) : (respond p).ksValid = p.2.ksValid := rfl
@[simp] theorem respond_cmdDropped (p : Response × State) : (respond p).cmdDropped = p.2.cmdDropped := rfl
@[simp] theorem respond_abortReq (p : Response × State) : (respond p).abortReq = p.2.abortReq := rfl
@[simp] theorem respond_errCode (p : Response × State) : (respond p).errCode = p.2.errCode := rfl
@[simp] theorem respond_curCmd (p : Response × State) : (respond p).curCmd = p.2.curCmd := rfl
@[simp] theorem respond_src (p : Response × State) : (respond p).src = p.2.src := rfl
@[simp] theorem respond_dst (p : Response × State) : (respond p).dst = p.2.dst := rfl
@[simp] theorem respond_len (p : Response × State) : (respond p).len = p.2.len := rfl
@[simp] theorem respond_outlen (p : Response × State) : (respond p).outlen = p.2.outlen := rfl
@[simp] theorem respond_blkcnt (p : Response × State) : (respond p).blkcnt = p.2.blkcnt := rfl
@[simp] theorem respond_gfA (p : Response × State) : (respond p).gfA = p.2.gfA := rfl
@[simp] theorem respond_gfB (p : Response × State) : (respond p).gfB = p.2.gfB := rfl
@[simp] theorem respond_gfR (p : Response × State) : (respond p).gfR = p.2.gfR := rfl
@[simp] theorem respond_key (p : Response × State) : (respond p).key = p.2.key := rfl
@[simp] theorem respond_blk (p : Response × State) : (respond p).blk = p.2.blk := rfl
@[simp] theorem respond_rk (p : Response × State) : (respond p).rk = p.2.rk := rfl
@[simp] theorem respond_buf (p : Response × State) : (respond p).buf = p.2.buf := rfl
@[simp] theorem respond_phase (p : Response × State) : (respond p).phase = p.2.phase := rfl
@[simp] theorem respond_n (p : Response × State) : (respond p).n = p.2.n := rfl
@[simp] theorem respond_padLen (p : Response × State) : (respond p).padLen = p.2.padLen := rfl
@[simp] theorem respond_w (p : Response × State) : (respond p).w = p.2.w := rfl
@[simp] theorem respond_events (p : Response × State) : (respond p).events = p.2.events := rfl
@[simp] theorem respond_responses (p : Response × State) : (respond p).responses = p.1 :: p.2.responses := rfl
@[simp] theorem respond_draws (p : Response × State) : (respond p).draws = p.2.draws := rfl

end Sys2Proof.Machine
end

