-- ==== Sys2Proof/Laws/Engine.lean ====
section
/-!
SUPPORT. What each meaning and each engine step can do, said once with its guards: later proofs cite these and unfold
neither `exec` nor a block step.
-/

namespace Sys2Proof.Machine

/-- A transform command completes with its function applied to BLK. -/
theorem transformBlk_eq (f : Block → Block) (s : State) :
    transformBlk f s = .next (finish .none { s with blk := f s.blk }) := rfl

/-- ENC_BLOCK and DEC_BLOCK: the result with a valid schedule, the error without one. -/
theorem cryptBlk_eq (f : Block → RoundKeys → Block) (s : State) :
    cryptBlk f s = .next (if s.ksValid then finish .none { s with blk := f s.blk s.rk } else finish .noSchedule s) := by
  unfold cryptBlk complete raise
  split <;> rfl

/-- A legal round index selects its round key. -/
theorem select_of_le {r : BitVec 4} (h : r.toNat ≤ 10) (k : RoundKeys) :
    k.select r = some (k.get ⟨r.toNat, by omega⟩) := by
  simp [Sys2Proof.RoundKeys.select, show r.toNat < 11 by omega]

/-- A round index above 10 selects none. -/
theorem select_of_gt {r : BitVec 4} (h : 10 < r.toNat) (k : RoundKeys) : k.select r = none := by
  simp [Sys2Proof.RoundKeys.select, show ¬r.toNat < 11 by omega]

/-- ADD_ROUND_KEY always ends in this step: a result, NO_SCHEDULE, or ILLEGAL_CMD for an index above 10. -/
theorem execAddRoundKey_eq (r : BitVec 4) (s : State) :
    execAddRoundKey r s = .next
      (match s.rk.select r with
      | none => finish .illegalCmd s
      | some k => if s.ksValid then finish .none { s with blk := addRoundKey s.blk k } else finish .noSchedule s) := by
  unfold execAddRoundKey raise
  generalize s.rk.select r = o
  cases o with
  | none => rfl
  | some k => by_cases hv : s.ksValid = true <;> simp [hv, transformBlk_eq]

/-- 44 R221: the three ways the setup step of ECB_ENC can end. -/
theorem execEcbEnc_next {s t : State} (h : execEcbEnc s = .next t) :
    ((s.src.toNat + s.len.toNat > s.bufBytes ∨ s.dst.toNat + 16 * (s.len.toNat / 16 + 1) > s.bufBytes)
      ∧ t = finish .rangeError { s with n := s.len.toNat / 16 + 1, padLen := padLength s.len.toNat })
    ∨ (s.src.toNat + s.len.toNat ≤ s.bufBytes ∧ s.dst.toNat + 16 * (s.len.toNat / 16 + 1) ≤ s.bufBytes
      ∧ t = { loadSchedule { s with n := s.len.toNat / 16 + 1, padLen := padLength s.len.toNat } with
          phase := .ecbEnc 0 }) := by
  unfold execEcbEnc raise at h
  dsimp only at h
  split at h
  · cases h
    exact .inl ⟨.inl ‹_›, rfl⟩
  · split at h
    · cases h
      exact .inl ⟨.inr ‹_›, rfl⟩
    · cases h
      exact .inr ⟨by omega, by omega, rfl⟩

/-- 44 R225: the four ways the setup step of ECB_DEC can end. -/
theorem execEcbDec_next {s t : State} (h : execEcbDec s = .next t) :
    (s.len.toNat % 16 ≠ 0 ∧ t = finish .invalidCiphertextLength s)
    ∨ (s.len.toNat % 16 = 0 ∧ s.src.toNat + s.len.toNat > s.bufBytes ∧ t = finish .rangeError s)
    ∨ (s.len.toNat = 0 ∧ s.src.toNat + s.len.toNat ≤ s.bufBytes ∧ t = finish .paddingError s)
    ∨ (s.len.toNat % 16 = 0 ∧ s.len.toNat ≠ 0 ∧ s.src.toNat + s.len.toNat ≤ s.bufBytes
      ∧ t = { loadSchedule { s with n := s.len.toNat / 16 } with phase := .ecbDecValidate }) := by
  unfold execEcbDec raise at h
  split at h
  · cases h
    exact .inl ⟨‹_›, rfl⟩
  · split at h
    · cases h
      exact .inr (.inl ⟨by omega, ‹_›, rfl⟩)
    · split at h
      · cases h
        exact .inr (.inr (.inl ⟨‹_›, by omega, rfl⟩))
      · cases h
        exact .inr (.inr (.inr ⟨by omega, ‹_›, by omega, rfl⟩))

/-- Everything a command's first step can do. -/
theorem exec_next {i : Instr} {s t : State} (h : exec i s = .next t) :
    (i = .nop ∧ t = finish .none s)
    ∨ (i = .expandKey ∧ t = finish .none (loadSchedule s))
    ∨ (i = .gfMul ∧ t = finish .none { s with gfR := gmul s.gfA s.gfB })
    ∨ (i ≠ .ecbEnc ∧ i ≠ .ecbDec ∧ i ≠ .expandKey ∧ ∃ b, t = finish .none { s with blk := b })
    ∨ ((i = .encBlock ∨ i = .decBlock ∨ ∃ r, i = .addRoundKey r) ∧ s.ksValid = false ∧ t = finish .noSchedule s)
    ∨ ((∃ r, i = .addRoundKey r ∧ 10 < r.toNat) ∧ t = finish .illegalCmd s)
    ∨ (i = .ecbEnc ∧ execEcbEnc s = .next t)
    ∨ (i = .ecbDec ∧ execEcbDec s = .next t) := by
  cases i with
  | nop => cases h; exact .inl ⟨rfl, rfl⟩
  | expandKey => cases h; exact .inr (.inl ⟨rfl, rfl⟩)
  | gfMul => cases h; exact .inr (.inr (.inl ⟨rfl, rfl⟩))
  | ecbEnc => exact .inr (.inr (.inr (.inr (.inr (.inr (.inl ⟨rfl, h⟩))))))
  | ecbDec => exact .inr (.inr (.inr (.inr (.inr (.inr (.inr ⟨rfl, h⟩))))))
  | subBytes => cases h; exact .inr (.inr (.inr (.inl ⟨by decide, by decide, by decide, _, rfl⟩)))
  | invSubBytes => cases h; exact .inr (.inr (.inr (.inl ⟨by decide, by decide, by decide, _, rfl⟩)))
  | shiftRows => cases h; exact .inr (.inr (.inr (.inl ⟨by decide, by decide, by decide, _, rfl⟩)))
  | invShiftRows => cases h; exact .inr (.inr (.inr (.inl ⟨by decide, by decide, by decide, _, rfl⟩)))
  | mixColumns => cases h; exact .inr (.inr (.inr (.inl ⟨by decide, by decide, by decide, _, rfl⟩)))
  | invMixColumns => cases h; exact .inr (.inr (.inr (.inl ⟨by decide, by decide, by decide, _, rfl⟩)))
  | encBlock =>
    rw [exec, execEncBlock, cryptBlk_eq] at h
    split at h
    · cases h
      exact .inr (.inr (.inr (.inl ⟨by decide, by decide, by decide, _, rfl⟩)))
    · cases h
      exact .inr (.inr (.inr (.inr (.inl ⟨.inl rfl, Bool.eq_false_iff.2 ‹_›, rfl⟩))))
  | decBlock =>
    rw [exec, execDecBlock, cryptBlk_eq] at h
    split at h
    · cases h
      exact .inr (.inr (.inr (.inl ⟨by decide, by decide, by decide, _, rfl⟩)))
    · cases h
      exact .inr (.inr (.inr (.inr (.inl ⟨.inr (.inl rfl), Bool.eq_false_iff.2 ‹_›, rfl⟩))))
  | addRoundKey r =>
    rw [exec, execAddRoundKey_eq] at h
    by_cases hr : r.toNat ≤ 10
    · rw [select_of_le hr] at h
      dsimp only at h
      split at h
      · cases h
        exact .inr (.inr (.inr (.inl ⟨by simp, by simp, by simp, _, rfl⟩)))
      · cases h
        exact .inr (.inr (.inr (.inr (.inl ⟨.inr (.inr ⟨r, rfl⟩), Bool.eq_false_iff.2 ‹_›, rfl⟩))))
    · rw [select_of_gt (by omega)] at h
      cases h
      exact .inr (.inr (.inr (.inr (.inr (.inl ⟨⟨r, rfl, by omega⟩, rfl⟩)))))

/-- The step of ECB_ENC(k): its guards and its two endings (44 R222). -/
theorem ecbEncBlock_next {k : Nat} {s t : State} (h : ecbEncBlock k s = .next t) :
    encStepHasRule s k = true ∧ s.bufHolds (s.src.toNat + 16 * k) (encInputBytes s k) = true
    ∧ s.bufHolds (s.dst.toNat + 16 * k) 16 = true
    ∧ ((k + 1 = s.n ∧ t = finish .none { encWrite s k with outlen := BitVec.ofNat 32 (16 * s.n) })
      ∨ (k + 1 ≠ s.n ∧ t = { encWrite s k with phase := .ecbEnc (k + 1) })) := by
  unfold ecbEncBlock complete at h
  split at h
  · cases h
  split at h
  · cases h
  split at h
  · cases h
  simp only [Bool.not_eq_true', Bool.not_eq_false] at *
  split at h <;> cases h
  · exact ⟨‹_›, ‹_›, ‹_›, .inl ⟨‹_›, rfl⟩⟩
  · exact ⟨‹_›, ‹_›, ‹_›, .inr ⟨‹_›, rfl⟩⟩

/-- The validation step of ECB_DEC: its guards and its three endings (44 R226). -/
theorem ecbDecValidate_next {s t : State} (h : ecbDecValidate s = .next t) :
    s.n ≠ 0 ∧ s.bufHolds (s.src.toNat + 16 * (s.n - 1)) 16 = true
    ∧ ∃ w, w = invCipher (s.buf.readBlock (s.src.toNat + 16 * (s.n - 1))) s.rk
    ∧ (((Block.byte w 15).toNat < 1 ∨ (w.byte 15).toNat > 16 ∨ (w.byte 15).toNat > s.len.toNat)
        ∧ t = finish .paddingError { s with w := w, padLen := (w.byte 15).toNat }
      ∨ (1 ≤ (w.byte 15).toNat ∧ (w.byte 15).toNat ≤ 16 ∧ (w.byte 15).toNat ≤ s.len.toNat)
        ∧ s.dst.toNat + (s.len.toNat - (w.byte 15).toNat) > s.bufBytes
        ∧ t = finish .rangeError { s with w := w, padLen := (w.byte 15).toNat }
      ∨ (1 ≤ (w.byte 15).toNat ∧ (w.byte 15).toNat ≤ 16 ∧ (w.byte 15).toNat ≤ s.len.toNat)
        ∧ s.dst.toNat + (s.len.toNat - (w.byte 15).toNat) ≤ s.bufBytes
        ∧ t = { s with w := w, padLen := (w.byte 15).toNat, phase := .ecbDec 0 }) := by
  unfold ecbDecValidate raise at h
  split at h
  · cases h
  split at h
  · cases h
  rename_i hn hb
  refine ⟨hn, by simpa using hb, _, rfl, ?_⟩
  dsimp only at h
  split at h
  · cases h
    exact .inl ⟨‹_›, rfl⟩
  · split at h
    · cases h
      exact .inr (.inl ⟨by omega, ‹_›, rfl⟩)
    · cases h
      exact .inr (.inr ⟨by omega, by omega, rfl⟩)

/-- The step of ECB_DEC(k): a block step or the final step, with their guards (44 R227, R228). -/
theorem ecbDecBlock_next {k : Nat} {s t : State} (h : ecbDecBlock k s = .next t) :
    (k + 1 < s.n ∧ s.bufHolds (s.src.toNat + 16 * k) 16 = true ∧ s.bufHolds (s.dst.toNat + 16 * k) 16 = true
      ∧ t = { s with
          buf := s.buf.writeBytes (s.dst.toNat + 16 * k)
            (invCipher (s.buf.readBlock (s.src.toNat + 16 * k)) s.rk).toList
          blkcnt := s.blkcnt + 1, phase := .ecbDec (k + 1) })
    ∨ (k + 1 = s.n ∧ s.padLen ≤ 16 ∧ s.padLen ≤ s.len.toNat
      ∧ s.bufHolds (s.dst.toNat + 16 * (s.n - 1)) (16 - s.padLen) = true
      ∧ t = finish .none { s with
          buf := s.buf.writeBytes (s.dst.toNat + 16 * (s.n - 1)) (s.w.toList.take (16 - s.padLen))
          blkcnt := s.blkcnt + 1, outlen := BitVec.ofNat 32 (s.len.toNat - s.padLen) }) := by
  unfold ecbDecBlock at h
  split at h
  · unfold ecbDecCopy at h
    split at h
    · cases h
    split at h
    · cases h
    simp only [Bool.not_eq_true', Bool.not_eq_false] at *
    cases h
    exact .inl ⟨‹_›, ‹_›, ‹_›, rfl⟩
  · split at h
    · unfold ecbDecFinal complete at h
      dsimp only at h
      split at h
      · cases h
      split at h
      · cases h
      rename_i hb
      cases h
      exact .inr ⟨‹_›, by omega, by omega, by simpa using hb, rfl⟩
    · cases h

/-- Everything one engine step can do. -/
theorem engineStep_next {s t : State} (h : engineStep s = .next t) :
    (s.phase = .idle ∧ t = s)
    ∨ (∃ w, s.phase = .start w ∧ (∀ i, decode w ≠ .ok i) ∧ t = finish .illegalCmd s)
    ∨ (∃ w i, s.phase = .start w ∧ decode w = .ok i ∧ exec i s = .next t)
    ∨ ((s.phase = .ecbDecValidate ∨ ∃ k, s.phase = .ecbEnc k ∨ s.phase = .ecbDec k) ∧ s.abortReq = true
      ∧ t = finish .aborted s)
    ∨ (∃ k, s.phase = .ecbEnc k ∧ s.abortReq = false ∧ ecbEncBlock k s = .next t)
    ∨ (s.phase = .ecbDecValidate ∧ s.abortReq = false ∧ ecbDecValidate s = .next t)
    ∨ (∃ k, s.phase = .ecbDec k ∧ s.abortReq = false ∧ ecbDecBlock k s = .next t) := by
  unfold engineStep at h
  split at h
  · cases h
    exact .inl ⟨‹_›, rfl⟩
  · rename_i w hp
    unfold firstStep raise at h
    split at h
    · rename_i e he
      cases h
      exact .inr (.inl ⟨w, hp, by simp [he], rfl⟩)
    · exact .inr (.inr (.inl ⟨w, _, hp, ‹_›, h⟩))
  all_goals
    rename_i hp
    unfold atBoundary raise at h
    split at h
  · cases h
    exact .inr (.inr (.inr (.inl ⟨.inr ⟨_, .inl hp⟩, ‹_›, rfl⟩)))
  · exact .inr (.inr (.inr (.inr (.inl ⟨_, hp, Bool.eq_false_iff.2 ‹_›, h⟩))))
  · cases h
    exact .inr (.inr (.inr (.inl ⟨.inl hp, ‹_›, rfl⟩)))
  · exact .inr (.inr (.inr (.inr (.inr (.inl ⟨hp, Bool.eq_false_iff.2 ‹_›, h⟩)))))
  · cases h
    exact .inr (.inr (.inr (.inl ⟨.inr ⟨_, .inr hp⟩, ‹_›, rfl⟩)))
  · exact .inr (.inr (.inr (.inr (.inr (.inr ⟨_, hp, Bool.eq_false_iff.2 ‹_›, h⟩)))))

end Sys2Proof.Machine
end

