-- ==== Sys2Proof/Laws/HostPort.lean ====
section
/-!
SUPPORT. The register map and the host port: offsets and registers determine each other, and what a host access and a step
can do, said once.
-/

namespace Sys2Proof.Machine

@[simp] theorem Reg.ofOffset_offset (r : Reg) : Reg.ofOffset r.offset = some r := by
  cases r with
  | key k => revert k; decide
  | blk k => revert k; decide
  | rk k => revert k; decide
  | _ => rfl

theorem Reg.offset_of_ofOffset {off : Nat} {r : Reg} (h : Reg.ofOffset off = some r) : r.offset = off := by
  unfold Reg.ofOffset at h
  split at h
  · cases h
  split at h
  · rename_i h4 hlt
    obtain ⟨q, rfl⟩ : ∃ q, off = 4 * q := ⟨off / 4, by omega⟩
    have hq : q < 12 := by omega
    simp only [Nat.mul_div_cancel_left q (show 0 < 4 by omega)] at h
    clear h4 hlt
    interval_cases q <;> (simp only [controlRegs] at h; cases h; rfl)
  split at h
  · cases h
    simp only [Reg.offset, Fin.ofNat]
    omega
  split at h
  · cases h
    simp only [Reg.offset, Fin.ofNat]
    omega
  split at h
  · cases h
    simp only [Reg.offset, Fin.ofNat]
    omega
  · cases h

/-- A register access of size 4 at its own offset reaches the register. -/
@[simp] theorem target_offset (bufBytes : Nat) (r : Reg) : target bufBytes r.offset 4 = .reg r := by
  simp [target]

/-- No register lies at or above the window of BUF. -/
theorem Reg.ofOffset_buf (a : Nat) : Reg.ofOffset (0x1000 + a) = none := by
  unfold Reg.ofOffset
  split
  · rfl
  · simp [show ¬0x1000 + a < 0x0030 by omega, show ¬0x1000 + a < 0x0050 by omega, show ¬0x1000 + a < 0x0060 by omega,
      show ¬0x1000 + a < 0x01B0 by omega]

theorem target_bufWord {bufBytes a : Nat} (h4 : a % 4 = 0) (h : a + 4 ≤ bufBytes) :
    target bufBytes (0x1000 + a) 4 = .bufWord a := by
  simp [target, bufOffset, Reg.ofOffset_buf, show (0x1000 + a) % 4 = 0 by omega]
  omega

theorem target_bufByte {bufBytes a : Nat} (h : a < bufBytes) : target bufBytes (0x1000 + a) 1 = .bufByte a := by
  simp [target, bufOffset, h]

/-- A 4-byte write at a register's offset is the write to that register. -/
theorem hostWrite_offset (r : Reg) (v : Word) (s : State) :
    hostWrite r.offset 4 v s = (⟨0, false⟩, writeReg r v s) := by
  simp only [hostWrite, target_offset]

/-- A 4-byte read at a register's offset answers the register's value, but for a result while BUSY = 1. -/
theorem hostRead_offset (r : Reg) (s : State) (h : (s.busy && unspecifiedWhileBusy (.reg r)) = false) :
    hostRead r.offset 4 s = (⟨readReg r s, false⟩, s) := by
  simp [hostRead, h, readTarget]

theorem whenIdle_of_idle {s : State} (h : s.phase = .idle) (f : State → State) : whenIdle f s = f s := by
  simp [whenIdle, State.busy, h]

theorem whenIdle_of_busy {s : State} (h : s.phase ≠ .idle) (f : State → State) : whenIdle f s = s := by
  simp [whenIdle, State.busy, h]

/-- 20_memory R72: taking a host word apart into its lanes and putting them together gives it back. -/
@[simp] theorem packLanes_unpackLanes (v : Word) : packLanes (unpackLanes v) = v := by
  apply BitVec.eq_of_getLsbD_eq
  intro i hi
  simp only [packLanes, unpackLanes, Col.ofRows, lane, BitVec.getLsbD_append, BitVec.getLsbD_extractLsb']
  interval_cases i <;> rfl

/-- A host read leaves the state as it is, but for one more free value used by a read of a result while BUSY = 1. -/
theorem hostRead_state (off size : Nat) (s : State) :
    (hostRead off size s).2 = s
    ∨ (s.busy = true ∧ unspecifiedWhileBusy (target s.bufBytes off size) = true
      ∧ (hostRead off size s).2 = { s with draws := s.draws + 1 }) := by
  unfold hostRead
  split
  · exact .inl rfl
  · split
    · rename_i hb
      rw [Bool.and_eq_true] at hb
      exact .inr ⟨hb.1, hb.2, rfl⟩
    · exact .inl rfl

/-- Everything a host write can do to the state: nothing; the CTRL and STATUS effects, busy or not; CMD_DROPPED while
BUSY = 1; and, while idle, acceptance or a new operand (a register, or bytes of BUF inside its bounds). -/
theorem hostWrite_state (off size : Nat) (v : Word) (s : State) :
    (hostWrite off size v s).2 = s
    ∨ (off = 0x0000 ∧ size = 4 ∧ (hostWrite off size v s).2 = writeCtrl v s)
    ∨ (off = 0x0004 ∧ size = 4 ∧ (hostWrite off size v s).2 = writeStatus v s)
    ∨ (off = 0x000C ∧ size = 4 ∧ s.busy = true ∧ (hostWrite off size v s).2 = { s with cmdDropped := true })
    ∨ (off = 0x000C ∧ size = 4 ∧ s.busy = false ∧ (hostWrite off size v s).2 = accept v s)
    ∨ (s.busy = false ∧ ∃ src dst len gfA gfB key blk, (hostWrite off size v s).2
        = { s with src := src, dst := dst, len := len, gfA := gfA, gfB := gfB, key := key, blk := blk })
    ∨ (s.busy = false ∧ ∃ a xs, a + List.length xs ≤ s.bufBytes
        ∧ (hostWrite off size v s).2 = { s with buf := s.buf.writeBytes a xs }) := by
  have idle : ∀ f : State → State, whenIdle f s = s ∨ (s.busy = false ∧ whenIdle f s = f s) := by
    intro f
    unfold whenIdle
    cases h : s.busy
    · exact .inr ⟨rfl, by simp⟩
    · exact .inl (by simp)
  have operand : ∀ f : State → State, (∃ src dst len gfA gfB key blk,
        f s = { s with src := src, dst := dst, len := len, gfA := gfA, gfB := gfB, key := key, blk := blk }) →
      whenIdle f s = s ∨ (s.busy = false ∧ ∃ src dst len gfA gfB key blk, whenIdle f s
        = { s with src := src, dst := dst, len := len, gfA := gfA, gfB := gfB, key := key, blk := blk }) := by
    intro f hf
    rcases idle f with h | ⟨h, h'⟩
    · exact .inl h
    · exact .inr ⟨h, by rw [h']; exact hf⟩
  unfold hostWrite
  split
  · exact .inl rfl
  · rename_i r ht
    have hoff : r.offset = off ∧ size = 4 := by
      unfold target at ht
      split at ht
      · split at ht
        · cases ht
          exact ⟨Reg.offset_of_ofOffset ‹_›, ‹_›⟩
        · split at ht <;> cases ht
      · split at ht
        · split at ht <;> cases ht
        · cases ht
    obtain ⟨rfl, rfl⟩ := hoff
    dsimp only
    cases r with
    | ctrl => exact .inr (.inl ⟨rfl, rfl, rfl⟩)
    | status => exact .inr (.inr (.inl ⟨rfl, rfl, rfl⟩))
    | cmd =>
      cases h : s.busy
      · exact .inr (.inr (.inr (.inr (.inl ⟨rfl, rfl, rfl, by simp [writeReg, writeCmd, h]⟩))))
      · exact .inr (.inr (.inr (.inl ⟨rfl, rfl, rfl, by simp [writeReg, writeCmd, h]⟩)))
    | err => exact .inl rfl
    | outlen => exact .inl rfl
    | blkcnt => exact .inl rfl
    | gfR => exact .inl rfl
    | rk k => exact .inl rfl
    | src =>
      rcases operand (fun s => { s with src := v }) ⟨_, _, _, _, _, _, _, rfl⟩ with h | h
      · exact .inl h
      · exact .inr (.inr (.inr (.inr (.inr (.inl h)))))
    | dst =>
      rcases operand (fun s => { s with dst := v }) ⟨_, _, _, _, _, _, _, rfl⟩ with h | h
      · exact .inl h
      · exact .inr (.inr (.inr (.inr (.inr (.inl h)))))
    | len =>
      rcases operand (fun s => { s with len := v }) ⟨_, _, _, _, _, _, _, rfl⟩ with h | h
      · exact .inl h
      · exact .inr (.inr (.inr (.inr (.inr (.inl h)))))
    | gfA =>
      rcases operand (fun s => { s with gfA := v.setWidth 8 }) ⟨_, _, _, _, _, _, _, rfl⟩ with h | h
      · exact .inl h
      · exact .inr (.inr (.inr (.inr (.inr (.inl h)))))
    | gfB =>
      rcases operand (fun s => { s with gfB := v.setWidth 8 }) ⟨_, _, _, _, _, _, _, rfl⟩ with h | h
      · exact .inl h
      · exact .inr (.inr (.inr (.inr (.inr (.inl h)))))
    | key k =>
      rcases operand (fun s => { s with key := s.key.setCol k (unpackLanes v) }) ⟨_, _, _, _, _, _, _, rfl⟩ with h | h
      · exact .inl h
      · exact .inr (.inr (.inr (.inr (.inr (.inl h)))))
    | blk k =>
      rcases operand (fun s => { s with blk := s.blk.setCol k (unpackLanes v) }) ⟨_, _, _, _, _, _, _, rfl⟩ with h | h
      · exact .inl h
      · exact .inr (.inr (.inr (.inr (.inr (.inl h)))))
  · rename_i a ht
    have ha : a + 4 ≤ s.bufBytes := by
      unfold target at ht
      split at ht
      · split at ht
        · cases ht
        · split at ht
          · rename_i hr
            injection ht with ht
            rw [bufOffset] at hr ht
            omega
          · cases ht
      · split at ht
        · split at ht <;> cases ht
        · cases ht
    rcases idle fun s => { s with buf := s.buf.writeBytes a (unpackLanes v).toList } with h | ⟨hb, h⟩
    · exact .inl h
    · refine .inr (.inr (.inr (.inr (.inr (.inr ⟨hb, a, (unpackLanes v).toList, ?_, h⟩)))))
      simpa [Col.toList] using ha
  · rename_i a ht
    have ha : a + 1 ≤ s.bufBytes := by
      unfold target at ht
      split at ht
      · split at ht
        · cases ht
        · split at ht <;> cases ht
      · split at ht
        · split at ht
          · rename_i hr
            injection ht with ht
            rw [bufOffset] at hr ht
            omega
          · cases ht
        · cases ht
    rcases idle fun s => { s with buf := s.buf.write a (v.setWidth 8) } with h | ⟨hb, h⟩
    · exact .inl h
    · refine .inr (.inr (.inr (.inr (.inr (.inr ⟨hb, a, [v.setWidth 8], ?_, ?_⟩)))))
      · simpa using ha
      · simpa only [Memory.writeBytes] using h

/-- A state of the environment apart: the same block, with other events, responses and count of free values. -/
def SameBlock (s t : State) : Prop :=
  t = { s with events := t.events, responses := t.responses, draws := t.draws }

theorem SameBlock.refl (s : State) : SameBlock s s := rfl

theorem hostRead_sameBlock (off size : Nat) (s : State) (rest : List Event) :
    SameBlock s (respond (hostRead off size { s with events := rest })) := by
  rcases hostRead_state off size { s with events := rest } with h | ⟨_, _, h⟩ <;> simp only [respond, h] <;> rfl

/-- Everything one step can do: an engine step; a host event that changes nothing of the block (a read, a wait, a
branch); a host write; reset. -/
theorem step_next {s t : State} (h : step s = .next t) :
    (s.events = [] ∧ engineStep s = .next t)
    ∨ (∃ rest, s.events = .engine :: rest ∧ engineStep { s with events := rest } = .next t)
    ∨ ((∀ off size v rest, s.events ≠ .write off size v :: rest) ∧ (∀ rest, s.events ≠ .reset :: rest)
      ∧ SameBlock s t)
    ∨ (∃ off size v rest, s.events = .write off size v :: rest
      ∧ t = respond (hostWrite off size v { s with events := rest }))
    ∨ (∃ rest, s.events = .reset :: rest ∧ t = resetInput { s with events := rest }) := by
  unfold step at h
  split at h
  · exact .inl ⟨‹_›, h⟩
  · rename_i e rest he
    cases e with
    | engine => exact .inr (.inl ⟨rest, he, h⟩)
    | write off size v =>
      cases h
      exact .inr (.inr (.inr (.inl ⟨_, _, _, _, he, rfl⟩)))
    | reset =>
      cases h
      exact .inr (.inr (.inr (.inr ⟨_, he, rfl⟩)))
    | read off size =>
      cases h
      exact .inr (.inr (.inl ⟨by simp [he], by simp [he], hostRead_sameBlock off size s rest⟩))
    | wait =>
      have hb := hostRead_sameBlock Reg.status.offset 4 s rest
      refine .inr (.inr (.inl ⟨by simp [he], by simp [he], ?_⟩))
      simp only [onEvent, waitRound] at h
      generalize respond (hostRead Reg.status.offset 4 { s with events := rest }) = u at hb h
      split at h <;> cases h
      · exact hb ▸ rfl
      · exact hb
    | ifReg off v skip =>
      have hb := hostRead_sameBlock off 4 s rest
      refine .inr (.inr (.inl ⟨by simp [he], by simp [he], ?_⟩))
      simp only [onEvent, branchOnRead] at h
      generalize respond (hostRead off 4 { s with events := rest }) = u at hb h
      split at h <;> cases h
      · exact hb
      · exact hb ▸ rfl

end Sys2Proof.Machine
end

