-- ==== Sys2Proof/Laws/PerInstr.lean ====
section
/-!
SUPPORT. A law of every command as syntax, one lemma for each constructor: only ADD_ROUND_KEY has an operand field
(30_encoding R102, R103).
-/

namespace Sys2Proof.Laws.OperandField

/-- A command whose opcode is not ADD_ROUND_KEY's is well-formed and has a zero RIDX. -/
def Statement (i : Instr) : Prop := i.opcode ≠ addRoundKeyOpcode → i.ridx = 0 ∧ i.wf = true

theorem nop : Statement .nop := fun _ => ⟨rfl, rfl⟩
theorem expandKey : Statement .expandKey := fun _ => ⟨rfl, rfl⟩
theorem encBlock : Statement .encBlock := fun _ => ⟨rfl, rfl⟩
theorem decBlock : Statement .decBlock := fun _ => ⟨rfl, rfl⟩
theorem ecbEnc : Statement .ecbEnc := fun _ => ⟨rfl, rfl⟩
theorem ecbDec : Statement .ecbDec := fun _ => ⟨rfl, rfl⟩
theorem subBytes : Statement .subBytes := fun _ => ⟨rfl, rfl⟩
theorem invSubBytes : Statement .invSubBytes := fun _ => ⟨rfl, rfl⟩
theorem shiftRows : Statement .shiftRows := fun _ => ⟨rfl, rfl⟩
theorem invShiftRows : Statement .invShiftRows := fun _ => ⟨rfl, rfl⟩
theorem mixColumns : Statement .mixColumns := fun _ => ⟨rfl, rfl⟩
theorem invMixColumns : Statement .invMixColumns := fun _ => ⟨rfl, rfl⟩
theorem addRoundKey (ridx : BitVec 4) : Statement (.addRoundKey ridx) := fun h => absurd rfl h
theorem gfMul : Statement .gfMul := fun _ => ⟨rfl, rfl⟩

end Sys2Proof.Laws.OperandField
end

