-- ==== Sys2Proof/Tests/Slice0.lean ====
section
/-!
SUPPORT. Small tests, each on one step with values from the spec (95_test_vectors unless said otherwise), the smoke test
of WellFormed, and a witness for the hypotheses of every statement that has some.
-/

namespace Sys2Proof.Tests

open Sys2Proof Sys2Proof.Machine

-- One thread at a time: many kernel decisions at once ask for more threads than the memory limit allows.
set_option Elab.async false

/-! ### Helpers -/

/-- A block from its 32 hex digits, byte 0 first (30_encoding R109). -/
def hex (n : Nat) : Block := .ofBytes fun i => BitVec.ofNat 8 (n >>> (8 * (15 - i.val)))

/-- The state an outcome goes to. -/
def after : Result → Option State
  | .next s => some s
  | .fault _ => none
  | .refused _ => none

/-- The state after the command word `w` is accepted and its first engine step taken. -/
def run1 (w : Word) (s : State) : Option State := after (engineStep (accept w s))

/-- Whether a word is decoded. -/
def isLegal (w : Word) : Bool := (decodeTableWord 32 w.toNat).isSome

/-- BUF with these bytes at this address. -/
def bufOf (a : Nat) (blocks : List Block) : Memory := Memory.writeBytes [] a (blocks.flatMap Block.toList)

/-- KAT1: key and plaintext. -/
def key1 : Block := hex 0x2b7e151628aed2a6abf7158809cf4f3c
def plain1 : Block := hex 0x3243f6a8885a308d313198a2e0370734

/-- KAT2: key, plaintext and ciphertext, and the ciphertext of the block of sixteen 0x10. -/
def key2 : Block := hex 0x000102030405060708090a0b0c0d0e0f
def plain2 : Block := hex 0x00112233445566778899aabbccddeeff
def cipher2 : Block := hex 0x69c4e0d86a7b0430d8cdb78070b4c55a
def cipher10 : Block := hex 0x954f64f2e4e86e9eee82d20216684899

/-- The reset state with this BLK. -/
def withBlk (b : Block) : State := { State.reset with blk := b }

/-- The reset state with this key expanded and this BLK. -/
def withKey (key b : Block) : State := { State.reset with key := key, rk := keyExpand key, ksValid := true, blk := b }

/-- The state after acceptance of `w`, with KAT2's key and the ECB operands. -/
def ecb (w : Word) (src dst len : Nat) (buf : Memory) : State :=
  accept w { State.reset with
    key := key2, src := BitVec.ofNat 32 src, dst := BitVec.ofNat 32 dst, len := BitVec.ofNat 32 len, buf := buf }

/-- Program P3 before block step `k` of ECB_ENC: 17 bytes at 0, output at 0x100. -/
def encAt (k : Nat) : State :=
  { ecb 0x00000004 0 0x100 17 (bufOf 0 [plain2, hex (0x42 * 2 ^ 120)]) with
    n := 2, padLen := 15, rk := keyExpand key2, ksValid := true, blkcnt := BitVec.ofNat 32 k, phase := .ecbEnc k }

/-- Program P3 at the validation step of ECB_DEC: 32 bytes at 0x100, output at 0x200. -/
def decValidate : State :=
  { ecb 0x00000005 0x100 0x200 32 (bufOf 0x100 [cipher2, hex 0x380a8ba5a71361b4027a9d6d857a59bd]) with
    n := 2, rk := keyExpand key2, ksValid := true, phase := .ecbDecValidate }

/-- Program P3 before block step `k` of ECB_DEC. -/
def decAt (k : Nat) : State :=
  { decValidate with
    w := hex 0x420f0f0f0f0f0f0f0f0f0f0f0f0f0f0f, padLen := 15, blkcnt := BitVec.ofNat 32 k, phase := .ecbDec k }

/-- The validation step of ECB_DEC for one 16-byte ciphertext at 0x100. -/
def decOne (c : Block) (dst : Nat) : State :=
  { ecb 0x00000005 0x100 dst 16 (bufOf 0x100 [c]) with
    n := 1, rk := keyExpand key2, ksValid := true, phase := .ecbDecValidate }

/-! ### WellFormed: ADD_ROUND_KEY's round index is at most 10 -/

theorem smoke_addRoundKey_above_10_refused :
    ∀ r : BitVec 4, 10 < r.toNat → (Instr.addRoundKey r).wf = false := by decide

theorem smoke_addRoundKey_10_accepted : (Instr.addRoundKey 10).wf = true := by decide

/-! ### Decoding: words written out bit by bit, RSV RIDX OP (30_encoding R100, R102) -/

theorem test_decode_nop : decodeTableWord 32 0b00000000000000000000_0000_00000000 = some .nop := by decide
theorem test_decode_expandKey : decodeTableWord 32 0b00000000000000000000_0000_00000001 = some .expandKey := by decide
theorem test_decode_encBlock : decodeTableWord 32 0b00000000000000000000_0000_00000010 = some .encBlock := by decide
theorem test_decode_decBlock : decodeTableWord 32 0b00000000000000000000_0000_00000011 = some .decBlock := by decide
theorem test_decode_ecbEnc : decodeTableWord 32 0b00000000000000000000_0000_00000100 = some .ecbEnc := by decide
theorem test_decode_ecbDec : decodeTableWord 32 0b00000000000000000000_0000_00000101 = some .ecbDec := by decide
theorem test_decode_subBytes : decodeTableWord 32 0b00000000000000000000_0000_00010000 = some .subBytes := by decide
theorem test_decode_invSubBytes :
    decodeTableWord 32 0b00000000000000000000_0000_00010001 = some .invSubBytes := by decide
theorem test_decode_shiftRows : decodeTableWord 32 0b00000000000000000000_0000_00010010 = some .shiftRows := by decide
theorem test_decode_invShiftRows :
    decodeTableWord 32 0b00000000000000000000_0000_00010011 = some .invShiftRows := by decide
theorem test_decode_mixColumns : decodeTableWord 32 0b00000000000000000000_0000_00010100 = some .mixColumns := by decide
theorem test_decode_invMixColumns :
    decodeTableWord 32 0b00000000000000000000_0000_00010101 = some .invMixColumns := by decide
theorem test_decode_addRoundKey :
    decodeTableWord 32 0b00000000000000000000_0111_00010110 = some (.addRoundKey 7) := by decide
theorem test_decode_gfMul : decodeTableWord 32 0b00000000000000000000_0000_00100000 = some .gfMul := by decide

/-- V11, 30_encoding R105: RIDX without ADD_ROUND_KEY, RSV, an unknown OP, RIDX = 11 and 15. -/
theorem test_decode_illegal :
    ∀ w ∈ [0x00000006, 0x00000110, 0x00001002, 0x000000FF, 0x00000B16, 0x00000F16, 0x80000000],
      decodeTableWord 32 w = none := by decide

/-- The encoder's word for ADD_ROUND_KEY 9 (program P2). -/
theorem test_encode_addRoundKey : encode (.addRoundKey 9) = 0x00000916 := by decide

/-! ### The commands -/

/-- V11; 45 R266: CMD_DROPPED stays. -/
theorem test_nop : (run1 0x00000000 { State.reset with cmdDropped := true, outlen := 5, errCode := 7 }).map
    (fun t => (t.done, t.busy, t.errCode, t.outlen, t.blkcnt, t.cmdDropped)) = some (true, false, 0, 0, 0, true) := by
  decide +kernel

/-- V7: words RK4 and RK40 after the KAT1 expansion, as the host reads them. -/
theorem test_expandKey : (run1 0x00000001 { State.reset with key := key1 }).map
    (fun t => (readReg (.rk 4) t, readReg (.rk 40) t, t.ksValid)) = some (0x17FEFAA0, 0xA8F914D0, true) := by
  decide +kernel

/-- V7: the last round key of the all-ones key. -/
theorem test_expandKey_ones : (run1 0x00000001 { State.reset with key := hex (2 ^ 128 - 1) }).map
    (fun t => t.rk.k10) = some (hex 0xd60a3588e472f07b82d2d7858cd7c326) := by decide +kernel

/-- V8, KAT1. -/
theorem test_encBlock : (run1 0x00000002 (withKey key1 plain1)).map (·.blk)
    = some (hex 0x3925841d02dc09fbdc118597196a0b32) := by decide +kernel

theorem test_encBlock_noSchedule : (run1 0x00000002 (withBlk plain1)).map (fun t => (t.blk, t.errCode))
    = some (plain1, 0x06) := by decide +kernel

/-- V8, KAT3. -/
theorem test_decBlock : (run1 0x00000003 (withKey .zero .zero)).map (·.blk)
    = some (hex 0x140f0f1011b5223d79587717ffd9ec3a) := by decide +kernel

theorem test_decBlock_noSchedule : (run1 0x00000003 (withBlk plain1)).map (fun t => (t.blk, t.errCode))
    = some (plain1, 0x06) := by decide +kernel

/-- V3. -/
theorem test_subBytes : (run1 0x00000010 (withBlk key2)).map (fun t => (t.blk, t.errCode))
    = some (hex 0x637c777bf26b6fc53001672bfed7ab76, 0) := by decide +kernel

/-- V3. -/
theorem test_invSubBytes : (run1 0x00000011 (withBlk key2)).map (·.blk)
    = some (hex 0x52096ad53036a538bf40a39e81f3d7fb) := by decide +kernel

/-- V4. -/
theorem test_shiftRows : (run1 0x00000012 (withBlk key2)).map (·.blk)
    = some (hex 0x00050a0f04090e03080d02070c01060b) := by decide +kernel

/-- V4. -/
theorem test_invShiftRows : (run1 0x00000013 (withBlk key2)).map (·.blk)
    = some (hex 0x000d0a0704010e0b0805020f0c090603) := by decide +kernel

/-- KAT4. -/
theorem test_mixColumns : (run1 0x00000014 (withBlk (hex 0xdb135345f20a225c01010101c6c6c6c6))).map (·.blk)
    = some (hex 0x8e4da1bc9fdc589d01010101c6c6c6c6) := by decide +kernel

/-- KAT4 backwards (V5). -/
theorem test_invMixColumns : (run1 0x00000015 (withBlk (hex 0x8e4da1bc9fdc589d01010101c6c6c6c6))).map (·.blk)
    = some (hex 0xdb135345f20a225c01010101c6c6c6c6) := by decide +kernel

/-- V6: r = 10 on a zero block gives RK[10]. -/
theorem test_addRoundKey : (run1 0x00000A16 (withKey key1 .zero)).map (·.blk)
    = some (hex 0xd014f9a8c9ee2589e13f0cc8b6630ca6) := by decide +kernel

/-- V6: r = 11 is ILLEGAL_CMD, with or without a schedule. -/
theorem test_addRoundKey_11 : (run1 0x00000B16 (withKey key1 plain1)).map (fun t => (t.blk, t.errCode))
    = some (plain1, 0x05) := by decide +kernel

/-- V1. -/
theorem test_gfMul : (run1 0x00000020 { State.reset with gfA := 0xCB, gfB := 0x53 }).map (·.gfR) = some 0x52 := by
  decide +kernel

theorem test_gfMul_ones : (run1 0x00000020 { State.reset with gfA := 0xFF, gfB := 0xFF }).map (·.gfR) = some 0x13 := by
  decide +kernel

/-- V9, the range corner cases and the accepted edge; 44 R221. -/
theorem test_ecbEnc_setup :
    [(4090, 0, 7), (0, 0, 4096), (0, 4080, 16), (0xFFFFFFFF, 0, 1), (4096, 4080, 0)].map (fun (src, dst, len) =>
      (after (engineStep (ecb 0x00000004 src dst len []))).map fun t => (t.errCode, t.phase, t.ksValid))
    = [some (0x07, .idle, false), some (0x07, .idle, false), some (0x07, .idle, false), some (0x07, .idle, false),
       some (0x00, .ecbEnc 0, true)] := by decide +kernel

/-- P3: the final block step of ECB_ENC. -/
theorem test_ecbEnc_final : (after (engineStep (encAt 1))).map
      (fun t => (t.buf.readBlock 0x110, t.blkcnt, t.outlen, t.errCode, t.done, t.busy))
    = some (hex 0x380a8ba5a71361b4027a9d6d857a59bd, 2, 32, 0, true, false) := by decide +kernel

/-- V10 and its priority corner cases (60 R284): the setup step of ECB_DEC. -/
theorem test_ecbDec_setup :
    [(0x100, 20), (4095, 20), (4088, 16), (4097, 0), (0x100, 0), (0x100, 32)].map (fun (src, len) =>
      (after (engineStep (ecb 0x00000005 src 0x200 len []))).map fun t => (t.errCode, t.phase, t.ksValid))
    = [some (0x03, .idle, false), some (0x03, .idle, false), some (0x07, .idle, false), some (0x07, .idle, false),
       some (0x04, .idle, false), some (0x00, .ecbDecValidate, true)] := by decide +kernel

/-- P3: the final step of ECB_DEC writes one byte at 0x210 and none at 0x211. -/
theorem test_ecbDec_final : (after (engineStep (decAt 1))).map
      (fun t => (t.buf.find 0x210, t.buf.find 0x211, t.blkcnt, t.outlen, t.errCode))
    = some (some 0x42, none, 2, 17, 0) := by decide +kernel

/-- V10, 44 R226, R233: the validation step by the last byte: 0x00, 0x11, 0xFF refused; 05 03 accepted; out of range. -/
theorem test_ecbDec_validate :
    [decOne (hex 0xc6a13b37878f5b826f4f8162a1c8d879) 0x200, decOne (hex 0x4493ada3306ce110f48157d8668959d7) 0x200,
     decOne (hex 0x39bbd9edf829063d5e7e702ebea40a38) 0x200, decOne (hex 0x2714f6e32b181806c4facdf985fd5163) 0x200,
     decOne (hex 0x7346139595c0b41e497bbde365f42d0a) 4082].map
      (fun s => (after (engineStep s)).map fun t => (t.errCode, t.phase, t.buf == s.buf))
    = [some (0x04, .idle, true), some (0x04, .idle, true), some (0x04, .idle, true), some (0x00, .ecbDec 0, true),
       some (0x07, .idle, true)] := by decide +kernel

/-! ### The host port and the environment -/

/-- V11: bus errors, which read as 0. -/
theorem test_busErrors :
    [(0x0000, 1), (0x0002, 4), (0x0030, 4), (0x0FFC, 4), (0x2000, 4), (0x2000, 1), (0x1000, 2)].map
      (fun (off, size) => (hostRead off size { State.reset with ie := true }).1) = List.replicate 7 ⟨0, true⟩ := by
  decide +kernel

/-- V11: `wrb BUF+5, 0xAB` then `rdw BUF+4`: bits 15:8. -/
theorem test_bufLanes :
    ((hostRead 0x1004 4 (hostWrite 0x1005 1 0xAB { State.reset with buf := bufOf 0 [.zero] }).2).1.data).toNat
      = 0x0000AB00 := by decide +kernel

/-- V11: `wrw BUF+0, 0x33221100`. -/
theorem test_bufWordWrite : (hostWrite 0x1000 4 0x33221100 State.reset).2.buf
    = [(0, 0x00), (1, 0x11), (2, 0x22), (3, 0x33)] := by decide +kernel

/-- P1: the words of `ld KEY`. -/
theorem test_keyWords : (hostWrite 0x0044 4 0x07060504 State.reset).2.key.c1 = ⟨0x04, 0x05, 0x06, 0x07⟩ := by
  decide +kernel

/-- V11: STATUS 0xFFFFFFFF clears DONE and CMD_DROPPED only. -/
theorem test_statusW1C : readReg .status
      (hostWrite 0x0004 4 0xFFFFFFFF { State.reset with done := true, cmdDropped := true, ksValid := true }).2
    = 0x00000004 := by decide +kernel

/-- V11: ABORT while idle is ignored; while ECB_ENC runs it is pending, and STATUS reads BUSY, KS_VALID and it. -/
theorem test_abortRequest : ((hostWrite 0x0000 4 0x00000002 State.reset).2.abortReq,
      readReg .status (hostWrite 0x0000 4 0x00000002 (encAt 1)).2) = (false, 0x00000015) := by decide +kernel

/-- 44 R231: the pending abort ends ECB_ENC before block 1, with BLKCNT = 1 and OUTLEN = 0. -/
theorem test_abort : (after (engineStep { encAt 1 with abortReq := true })).map
    (fun t => (t.errCode, t.blkcnt, t.outlen, t.abortReq, t.done)) = some (0x08, 1, 0, false, true) := by decide +kernel

/-- V11: a write to CMD while BUSY = 1 sets CMD_DROPPED and nothing else. -/
theorem test_cmdDropped : (hostWrite 0x000C 4 0x00000001 (encAt 0)).2 = { encAt 0 with cmdDropped := true } := by
  decide +kernel

/-- 70 R320: reset during ECB_ENC keeps BUF and abandons the command. -/
theorem test_resetInput : after (step { encAt 1 with events := [.reset] })
    = some { State.reset with buf := (encAt 1).buf } := by decide +kernel

/-- 60 R290: IRQ at completion with IE = 1, cleared by DONE. -/
theorem test_irq : (run1 0x00000000 { State.reset with ie := true }).map
    (fun t => (t.irq, (hostWrite 0x0004 4 0x00000002 t).2.irq)) = some (true, false) := by decide +kernel

/-- `withFetchWord` makes the next step run the word. -/
theorem test_withFetchWord : (after (step (State.reset.withFetchWord 32 0x00000010))).map (·.blk)
    = some (hex 0x63636363636363636363636363636363) := by decide +kernel

/-! ### Witnesses: states and operands that meet the hypotheses of each statement -/

theorem witness_DecodeUndoesEncode : (Instr.addRoundKey 0).wf = true ∧ (Instr.addRoundKey 10).wf = true
    ∧ Instr.gfMul.wf = true := by decide

theorem witness_DecodeFollowsMatchAndMask : ∀ r, Instr.gfMul ≠ .addRoundKey r := by decide

/-- Each kind of illegal word, accepted. -/
theorem witness_IllegalWordsCompleteWithIllegalCmd :
    ([0x00000B16, 0x00000F16, 0x00000110, 0x00001000, 0x00000006] : List Word).all (fun w =>
      decide ((accept w State.reset).phase = .start w ∧ (accept w State.reset).curCmd = w) && !isLegal w) = true := by
  decide +kernel

/-- A legal word and an illegal one, with no event and with the engine's move first. -/
theorem witness_StepRunsTheAcceptedCommand :
    (accept 0x00000020 State.reset).phase = .start 0x00000020 ∧ (accept 0x00000020 State.reset).events = []
    ∧ (engineNext (accept 0x00000020 State.reset)).events = .engine :: [] ∧ decodeTableWord 32 0x00000020 = some .gfMul
    ∧ Instr.gfMul ≠ .ecbEnc ∧ Instr.gfMul ≠ .ecbDec ∧ isLegal 0x00000021 = false := by decide +kernel

/-- An idle state whose step is each of: a write, reset, a read, no event. -/
theorem witness_IdleEngineHasNoStep : State.reset.phase = .idle
    ∧ ∀ es ∈ [[Event.write 0x000C 4 0], [.reset], [.read 0x0004 4], []],
      (after (step { State.reset with events := es })).isSome := by decide +kernel

theorem witness_ResetGivesTheResetValues : ({ encAt 1 with events := [.reset] } : State).events = .reset :: [] := by
  decide

theorem witness_ResetRoundKeysAreNoSchedule : (withBlk plain1).ksValid = false ∧ (Instr.addRoundKey 10).wf = true
    ∧ Instr.encBlock.wf = true ∧ Instr.decBlock.wf = true := by decide

theorem witness_GmulCommutesAssociatesAndInverts : (0x53 : Byte) ≠ 0 ∧ gmul 0x53 0xCA = 1 := by decide +kernel

/-- V1: inverse pairs, for x = 0 and for x ≠ 0. -/
theorem witness_TablesSatisfyTheirLaws :
    (((0x00 : Byte) = 0 → (0x00 : Byte) = 0) ∧ ((0x00 : Byte) ≠ 0 → gmul 0x00 0x00 = 1))
    ∧ ((0x02 : Byte) = 0 → (0x8D : Byte) = 0) ∧ ((0x02 : Byte) ≠ 0 → gmul 0x02 0x8D = 1) := by decide +kernel

theorem witness_ShiftRowsRotatesRowsLeft : (12 : Fin 16) ∈ ([0, 4, 8, 12] : List (Fin 16)) := by decide

theorem witness_InvShiftRowsRotatesRowsRight : (0 : Fin 16) ∈ ([0, 4, 8, 12] : List (Fin 16)) := by decide

theorem witness_MixColumnsMultipliesEveryColumn :
    Block.zero.col 3 = .zero ∧ (hex 0xdb135345f20a225c01010101c6c6c6c6).col 2 = ⟨0x01, 0x01, 0x01, 0x01⟩ := by
  decide +kernel

theorem witness_InvMixColumnsMultipliesEveryColumn :
    Block.zero.col 0 = .zero ∧ (hex 0xdb135345f20a225c01010101c6c6c6c6).col 3 = ⟨0xc6, 0xc6, 0xc6, 0xc6⟩ := by
  decide +kernel

/-- With a schedule, without one, and the words of RIDX 11 and 15. -/
theorem witness_AddRoundKeyXorsTheSelectedKey :
    (withKey key1 plain1).ksValid = true ∧ (withBlk plain1).ksValid = false
    ∧ ∀ r ∈ ([11, 15] : List (BitVec 4)), 10 < r.toNat
      ∧ (accept (encode (.addRoundKey r)) State.reset).phase = .start (encode (.addRoundKey r)) := by decide +kernel

/-- Two states that differ in KEY, DONE and GF_A and agree on BLK, RK and KS_VALID. -/
theorem witness_RoundCommandsReadOnlyTheirOperands :
    (withKey key1 plain1).blk = ({ withKey key1 plain1 with key := key2, done := true, gfA := 1 } : State).blk
    ∧ (withKey key1 plain1).rk = ({ withKey key1 plain1 with key := key2, done := true, gfA := 1 } : State).rk
    ∧ (withKey key1 plain1).ksValid = ({ withKey key1 plain1 with key := key2, done := true, gfA := 1 } : State).ksValid
    ∧ Instr.subBytes ∈ [Instr.subBytes, .invSubBytes, .shiftRows, .invShiftRows, .mixColumns, .invMixColumns] := by
  decide +kernel

theorem witness_KeyExpandRecurrence : (after (exec .expandKey { State.reset with key := key1 })).isSome
    ∧ (3 : Fin 4) ≠ 0 := by decide +kernel

theorem witness_ScheduleElementsDeriveFromTheirPredecessor :
    (keyExpand key1).get 4 = (keyExpand key1).get 4 ∧ (4 : Fin 11) ≤ 10 := by decide

/-- A step that changes the schedule by a command, and one by reset. -/
theorem witness_OnlyExpansionChangesTheSchedule :
    (after (step (accept 0x00000001 { State.reset with key := key1 }))).map (fun t => decide (t.rk ≠ State.reset.rk))
      = some true
    ∧ (after (step { withKey key1 plain1 with events := [.reset] })).map (·.ksValid) = some false := by decide +kernel

theorem witness_EngineKeepsKeyRangeAndGfOperands : (after (engineStep (encAt 0))).isSome := by decide +kernel

theorem witness_EncBlockRunsTheCipher : (withKey key1 plain1).ksValid = true ∧ (withBlk plain1).ksValid = false := by
  decide

theorem witness_DecBlockRunsTheInverseCipher :
    (withKey key2 cipher2).ksValid = true ∧ (withBlk cipher2).ksValid = false := by decide

/-- A valid schedule, and a state between the two commands that differs elsewhere. -/
theorem witness_CipherAndInverseCipherRoundTrip : (withKey key2 plain2).ksValid = true
    ∧ (after (exec .encBlock (withKey key2 plain2))).map (fun t =>
        decide ({ t with done := false, key := key1 }.blk = t.blk ∧ { t with done := false, key := key1 }.rk = t.rk
          ∧ { t with done := false, key := key1 }.ksValid = t.ksValid)) = some true := by decide +kernel

theorem witness_PaddingIsOneToSixteenBytes : plain2.toList.length % 16 = 0 := by decide

/-- Two identical blocks of one plaintext (S5). -/
theorem witness_EcbEncryptsBlocksIndependently : 0 < (plain2.toList ++ plain2.toList).length / 16 + 1
    ∧ 1 < (plain2.toList ++ plain2.toList).length / 16 + 1
    ∧ ∀ j < 16, (pad (plain2.toList ++ plain2.toList))[16 * 0 + j]?
      = (pad (plain2.toList ++ plain2.toList))[16 * 1 + j]? := by decide +kernel

/-- A length of 1, the empty list, and one block whose last byte decrypts to 0x00, 0x11, 0x01 and 0x10 (V10). -/
theorem witness_EcbDecryptChecksLengthThenLastByte : ([0x00] : List Byte).length % 16 ≠ 0
    ∧ cipher10.toList.length % 16 = 0 ∧ cipher10.toList ≠ []
    ∧ [hex 0xc6a13b37878f5b826f4f8162a1c8d879, hex 0x4493ada3306ce110f48157d8668959d7,
        hex 0x7346139595c0b41e497bbde365f42d0a, cipher10].map (fun c => (invCipher c (keyExpand key2)).byte 15)
      = [0x00, 0x11, 0x01, 0x10] := by decide +kernel

/-- The first range out by one byte, the second out by 16, and both at the last byte of BUF (V9). -/
theorem witness_EcbEncSetup :
    ((ecb 4 4090 0 7 []).src.toNat + (ecb 4 4090 0 7 []).len.toNat > (ecb 4 4090 0 7 []).bufBytes)
    ∧ ((ecb 4 0 4080 16 []).dst.toNat + 16 * ((ecb 4 0 4080 16 []).len.toNat / 16 + 1) > (ecb 4 0 4080 16 []).bufBytes)
    ∧ ((ecb 4 4096 4080 0 []).src.toNat + (ecb 4 4096 4080 0 []).len.toNat ≤ (ecb 4 4096 4080 0 []).bufBytes)
    ∧ ((ecb 4 4096 4080 0 []).dst.toNat + 16 * ((ecb 4 4096 4080 0 []).len.toNat / 16 + 1)
      ≤ (ecb 4 4096 4080 0 []).bufBytes) := by decide +kernel

/-- The first block and the final block of P3. -/
theorem witness_EcbEncBlockStep : ∀ k < 2, (encAt k).phase = .ecbEnc k ∧ (encAt k).abortReq = false
    ∧ (encAt k).n = (encAt k).len.toNat / 16 + 1 ∧ (encAt k).padLen = 16 - (encAt k).len.toNat % 16 ∧ k < (encAt k).n
    ∧ (encAt k).src.toNat + (encAt k).len.toNat ≤ (encAt k).bufBytes
    ∧ (encAt k).dst.toNat + 16 * (encAt k).n ≤ (encAt k).bufBytes := by decide +kernel

/-- Disjoint ranges, and output over the input (DST = SRC). -/
theorem witness_EcbEncComputesEncryptEcb :
    (∀ s ∈ [ecb 4 0 0x100 17 [], ecb 4 0x100 0x100 17 []], s.phase = .start 0x00000004 ∧ s.events = []
      ∧ s.abortReq = false ∧ s.src.toNat + s.len.toNat ≤ s.bufBytes
      ∧ s.dst.toNat + 16 * (s.len.toNat / 16 + 1) ≤ s.bufBytes)
    ∧ (ecb 4 0 0x100 17 []).src.toNat + (ecb 4 0 0x100 17 []).len.toNat ≤ (ecb 4 0 0x100 17 []).dst.toNat
    ∧ (ecb 4 0x100 0x100 17 []).dst.toNat ≤ (ecb 4 0x100 0x100 17 []).src.toNat := by decide +kernel

/-- Each check of the setup step, and all of them passed. -/
theorem witness_EcbDecSetup :
    (ecb 5 0x100 0 20 []).len.toNat % 16 ≠ 0
    ∧ ((ecb 5 4088 0 16 []).len.toNat % 16 = 0
      ∧ (ecb 5 4088 0 16 []).src.toNat + (ecb 5 4088 0 16 []).len.toNat > (ecb 5 4088 0 16 []).bufBytes)
    ∧ ((ecb 5 4096 0 0 []).len.toNat = 0
      ∧ (ecb 5 4096 0 0 []).src.toNat + (ecb 5 4096 0 0 []).len.toNat ≤ (ecb 5 4096 0 0 []).bufBytes)
    ∧ ((ecb 5 4080 0 16 []).len.toNat % 16 = 0
      ∧ (ecb 5 4080 0 16 []).src.toNat + (ecb 5 4080 0 16 []).len.toNat ≤ (ecb 5 4080 0 16 []).bufBytes
      ∧ (ecb 5 4080 0 16 []).len.toNat ≠ 0) := by decide +kernel

/-- Last bytes 0x00, 0x01 with DST + 15 one past BUF, 0x01 ending at BUF's last byte, 0x10 (V10). -/
theorem witness_EcbDecValidationStep :
    (∀ s ∈ [decOne (hex 0xc6a13b37878f5b826f4f8162a1c8d879) 0x200, decOne (hex 0x7346139595c0b41e497bbde365f42d0a) 4082,
        decOne (hex 0x7346139595c0b41e497bbde365f42d0a) 4081, decOne cipher10 4096],
      s.phase = .ecbDecValidate ∧ s.abortReq = false ∧ s.n = s.len.toNat / 16 ∧ s.len.toNat % 16 = 0
      ∧ 0 < s.len.toNat ∧ s.src.toNat + s.len.toNat ≤ s.bufBytes)
    ∧ ((invCipher (hex 0xc6a13b37878f5b826f4f8162a1c8d879) (keyExpand key2)).byte 15).toNat < 1
    ∧ ((invCipher (hex 0x7346139595c0b41e497bbde365f42d0a) (keyExpand key2)).byte 15).toNat = 1
    ∧ 4082 + (16 - 1) > State.reset.bufBytes ∧ 4081 + (16 - 1) ≤ State.reset.bufBytes
    ∧ ((invCipher cipher10 (keyExpand key2)).byte 15).toNat = 16 ∧ 4096 + (16 - 16) ≤ State.reset.bufBytes := by
  decide +kernel

theorem witness_EcbDecBlockStep : (decAt 0).phase = .ecbDec 0 ∧ (decAt 0).abortReq = false ∧ 0 + 2 ≤ (decAt 0).n
    ∧ (decAt 0).src.toNat + 16 * (decAt 0).n ≤ (decAt 0).bufBytes
    ∧ (decAt 0).dst.toNat + 16 * ((decAt 0).n - 1) ≤ (decAt 0).bufBytes := by decide +kernel

/-- P3's final step, and the same with a whole block of padding. -/
theorem witness_EcbDecFinalStep : ∀ p ∈ [15, 16, 1],
    ({ decAt 1 with padLen := p } : State).phase = .ecbDec ((decAt 1).n - 1) ∧ (decAt 1).abortReq = false
    ∧ 1 ≤ (decAt 1).n ∧ 1 ≤ p ∧ p ≤ 16 ∧ (decAt 1).len.toNat = 16 * (decAt 1).n
    ∧ (decAt 1).dst.toNat + ((decAt 1).len.toNat - p) ≤ (decAt 1).bufBytes := by decide +kernel

/-- A ciphertext with bad padding, one whose output leaves BUF by one byte, one with an empty plaintext, and one over its
own input. -/
theorem witness_EcbDecComputesDecryptEcb :
    (∀ s ∈ [ecb 5 0x100 0x200 16 (bufOf 0x100 [hex 0xc6a13b37878f5b826f4f8162a1c8d879]),
        ecb 5 0x100 4082 16 (bufOf 0x100 [hex 0x7346139595c0b41e497bbde365f42d0a]),
        ecb 5 0x100 0x108 16 (bufOf 0x100 [cipher10]),
        ecb 5 0x100 0x100 16 (bufOf 0x100 [hex 0x7346139595c0b41e497bbde365f42d0a])],
      s.phase = .start 0x00000005 ∧ s.events = [] ∧ s.abortReq = false ∧ s.len.toNat % 16 = 0 ∧ s.len.toNat ≠ 0
      ∧ s.src.toNat + s.len.toNat ≤ s.bufBytes)
    ∧ (match decryptEcb (hex 0xc6a13b37878f5b826f4f8162a1c8d879).toList key2 with
        | .error e => decide (e = .paddingError)
        | .ok _ => false) = true
    ∧ (match decryptEcb (hex 0x7346139595c0b41e497bbde365f42d0a).toList key2 with
        | .error _ => false
        | .ok p => decide (p = List.replicate 15 0x00)) = true
    ∧ (match decryptEcb cipher10.toList key2 with
        | .error _ => false
        | .ok p => decide (p = [])) = true := by decide +kernel

/-! The parts of the invariant of a concrete state, each from one decision. -/

theorem bufInv_of {s : State}
    (h : Config.bufBytesLegal s.bufBytes = true ∧ s.buf.wf = true ∧ s.buf.inside s.bufBytes = true) : s.BufInv :=
  ⟨h.1, h.2.1, h.2.2⟩

theorem flagInv_of {s : State} (h : s.errCode ∈ writtenCodes ∧ (s.errCode ≠ 0 → s.outlen = 0) ∧ s.rk = keyExpand key2
    ∧ s.ksValid = true ∧ (s.busy = true → s.done = false ∧ s.errCode = 0 ∧ s.outlen = 0)
    ∧ (s.abortReq = true → s.abortable = true)) : s.FlagInv :=
  ⟨h.1, h.2.1, fun _ => ⟨key2, h.2.2.1⟩, fun hk => by simp [h.2.2.2.1] at hk, h.2.2.2.2.1, h.2.2.2.2.2⟩

theorem encInv_of {s : State} {k : Nat} (h : s.curCmd = encode .ecbEnc ∧ s.n = s.len.toNat / 16 + 1
    ∧ s.padLen = padLength s.len.toNat ∧ k < s.n ∧ s.src.toNat + s.len.toNat ≤ s.bufBytes
    ∧ s.dst.toNat + 16 * s.n ≤ s.bufBytes ∧ s.ksValid = true ∧ s.rk = keyExpand s.key ∧ s.blkcnt.toNat = k) :
    s.EncInv k :=
  ⟨h.1, h.2.1, h.2.2.1, h.2.2.2.1, h.2.2.2.2.1, h.2.2.2.2.2.1, h.2.2.2.2.2.2.1, h.2.2.2.2.2.2.2.1,
    h.2.2.2.2.2.2.2.2⟩

theorem decInv_of {s : State} {k : Nat} (h : s.curCmd = encode .ecbDec ∧ s.len.toNat % 16 = 0 ∧ 0 < s.len.toNat
    ∧ s.n = s.len.toNat / 16 ∧ s.src.toNat + s.len.toNat ≤ s.bufBytes ∧ s.ksValid = true ∧ s.rk = keyExpand s.key
    ∧ s.blkcnt.toNat = k) : s.DecInv k :=
  ⟨h.1, h.2.1, h.2.2.1, h.2.2.2.1, h.2.2.2.2.1, h.2.2.2.2.2.1, h.2.2.2.2.2.2.1, h.2.2.2.2.2.2.2⟩

/-- The invariant holds of P3 before block step 1 of ECB_ENC. -/
theorem inv_encAt_1 : (encAt 1).Inv :=
  ⟨bufInv_of (by decide +kernel), flagInv_of (by decide +kernel), encInv_of (k := 1) (by decide +kernel)⟩

/-- With an abort pending in each of the three phases that have a block boundary. -/
theorem witness_AbortEndsTheCommandAtABoundary :
    (∃ s : State, s.Inv ∧ s.abortReq = true ∧ s.phase = .ecbEnc 1)
    ∧ (∃ s : State, s.Inv ∧ s.abortReq = true ∧ s.phase = .ecbDecValidate)
    ∧ ∃ s : State, s.Inv ∧ s.abortReq = true ∧ s.phase = .ecbDec 1 := by
  refine ⟨⟨{ encAt 1 with abortReq := true }, ⟨?_, ?_, ?_⟩, rfl, rfl⟩,
    ⟨{ decValidate with abortReq := true }, ⟨?_, ?_, ?_⟩, rfl, rfl⟩,
    ⟨{ decAt 1 with abortReq := true }, ⟨?_, ?_, ?_⟩, rfl, rfl⟩⟩
  any_goals exact bufInv_of (by decide +kernel)
  any_goals exact flagInv_of (by decide +kernel)
  · exact encInv_of (k := 1) (by decide +kernel)
  · exact decInv_of (k := 0) (by decide +kernel)
  · exact ⟨decInv_of (k := 1) (by decide +kernel), by decide +kernel, by decide +kernel, by decide +kernel,
      by decide +kernel, by decide +kernel⟩

/-- A write to CMD in an idle state and in a busy one. -/
theorem witness_CmdWriteIsAcceptedOrDropped :
    ({ State.reset with events := [.write 0x000C 4 1] } : State).events = .write 0x000C 4 1 :: []
    ∧ ({ State.reset with events := [.write 0x000C 4 1] } : State).phase = .idle
    ∧ ({ encAt 0 with events := [.write 0x000C 4 1] } : State).phase ≠ .idle := by decide

/-- The last legal offset of each range and the first illegal one after it. -/
theorem witness_IllegalAccessesAreBusErrors :
    (∀ off ∈ [0x0000, 0x002C, 0x0040, 0x005C, 0x0100, 0x01AC, 0x1000, 0x1FFC], off ≤ 0xFFFF ∧ off % 4 = 0
      ∧ (off < 0x0030 ∨ (0x0040 ≤ off ∧ off < 0x0060) ∨ (0x0100 ≤ off ∧ off < 0x01B0)
        ∨ (0x1000 ≤ off ∧ off + 4 ≤ 0x1000 + State.reset.bufBytes)))
    ∧ (0x1000 ≤ 0x1FFF ∧ 0x1FFF < 0x1000 + State.reset.bufBytes)
    ∧ (∀ off ∈ [0x0030, 0x003C, 0x0060, 0x00FC, 0x01B0, 0x0FFC, 0x2000, 0xFFFC, 0x0002], off ≤ 0xFFFF
      ∧ ¬(off % 4 = 0 ∧ (off < 0x0030 ∨ (0x0040 ≤ off ∧ off < 0x0060) ∨ (0x0100 ≤ off ∧ off < 0x01B0)
        ∨ (0x1000 ≤ off ∧ off + 4 ≤ 0x1000 + State.reset.bufBytes)))) := by decide

/-- An idle state, with the first and the last word and byte of BUF. -/
theorem witness_HostWordsAreLittleEndian : State.reset.phase = .idle
    ∧ (∀ a ∈ [0, 4092], a % 4 = 0 ∧ a + 4 ≤ State.reset.bufBytes) ∧ ∀ a ∈ [0, 4095], a < State.reset.bufBytes := by
  decide

/-- An idle state, the operand offsets, and the first and the last word and byte of BUF. -/
theorem witness_IdleWritesReadBack : State.reset.phase = .idle ∧ 0x0018 ∈ [0x0010, 0x0014, 0x0018]
    ∧ 0x0024 ∈ [0x0024, 0x0028] ∧ (∀ a ∈ [0, 4092], a % 4 = 0 ∧ a + 4 ≤ State.reset.bufBytes) ∧ ∀ a ∈ [0, 4095], a < State.reset.bufBytes := by
  decide

/-- Two busy states that differ in BLK and OUTLEN, and accesses that are none of CTRL, STATUS, CMD. -/
theorem witness_BusyAccessesAreShieldedFromTheCommand :
    (encAt 1).phase ≠ .idle ∧ ({ encAt 1 with blk := plain2, outlen := 7 } : State).phase ≠ .idle
    ∧ (encAt 1).bufBytes = ({ encAt 1 with blk := plain2, outlen := 7 } : State).bufBytes
    ∧ (encAt 1).draws = ({ encAt 1 with blk := plain2, outlen := 7 } : State).draws
    ∧ (∀ off ∈ [0x001C, 0x002C, 0x0050, 0x005C, 0x0100, 0x01AC, 0x1000],
      (0x1000 ≤ off ∨ 0x0100 ≤ off ∧ off < 0x01B0 ∨ 0x0050 ≤ off ∧ off < 0x0060 ∨ off = 0x001C ∨ off = 0x002C))
    ∧ ¬((4 : Nat) = 4 ∧ (0x0010 = 0x0000 ∨ 0x0010 = 0x0004 ∨ 0x0010 = 0x000C)) := by decide

theorem witness_HostReadsHaveNoSideEffects : State.reset.phase = .idle := by decide

/-- The first and the last read-only offset. -/
theorem witness_StatusBitsAndReadOnlyRegisters : ∀ off ∈ [0x0008, 0x01AC],
    off = 0x0008 ∨ off = 0x001C ∨ off = 0x0020 ∨ off = 0x002C ∨ ∃ k : Fin 44, off = 0x0100 + 4 * k.val := by decide

/-- IRQ raised by a completion with IE = 1, and by writing IE while DONE = 1. -/
theorem witness_InterruptFollowsCompletion :
    (State.irq { accept 0x00000000 State.reset with ie := true } = false
      ∧ (after (step { accept 0x00000000 State.reset with ie := true })).map (·.irq) = some true)
    ∧ (State.irq { State.reset with done := true, events := [.write 0x0000 4 1] } = false
      ∧ (after (step { State.reset with done := true, events := [.write 0x0000 4 1] })).map (·.irq) = some true)
    ∧ State.reset.phase = .idle := by decide +kernel

/-- A state that meets the invariant and has a next state. -/
theorem witness_EveryStepKeepsTheInvariant : (encAt 1).Inv ∧ (after (step (encAt 1))).isSome :=
  ⟨inv_encAt_1, by decide +kernel⟩

theorem witness_NoStepFaults : (encAt 1).Inv ∧ (encAt 1).phase ≠ .idle := ⟨inv_encAt_1, by decide⟩

/-- Host accesses around engine moves, as many as the bound of any command of the reset BUF. -/
def disturbed : List Event :=
  .write 0x0000 4 2 :: .read 0x0004 4 :: List.replicate (4096 / 16 + 3) .engine

theorem disturbed_events : (disturbed.all fun e =>
      match e with
      | .engine | .read _ _ | .write _ _ _ => true
      | .wait | .ifReg _ _ _ | .reset => false) = true
    ∧ State.reset.bufBytes / 16 + 3 ≤ disturbed.count .engine := by decide +kernel

/-- An accepted NOP, ECB_ENC, ECB_DEC and illegal word, undisturbed and with host accesses to come. -/
theorem witness_EveryCommandCompletes : ∀ w ∈ ([0x00000000, 0x00000004, 0x00000005, 0x00000006] : List Word),
    ∀ es ∈ [[], disturbed], State.Inv { accept w State.reset with events := es }
      ∧ ({ accept w State.reset with events := es } : State).phase = .start w
      ∧ ({ accept w State.reset with events := es } : State).events = es := by
  intro w _ es _
  exact ⟨⟨⟨(by decide : Config.bufBytesLegal State.reset.bufBytes = true), rfl, rfl⟩,
    ⟨List.mem_cons_self, fun _ => rfl, nofun, fun _ => rfl, fun _ => ⟨rfl, rfl, rfl⟩, nofun⟩, rfl, rfl⟩, rfl, rfl⟩

/-- A completing engine step with each code. -/
theorem witness_ErrorCodesHaveTheirCauses :
    [accept 0x00000000 State.reset, ecb 5 0 0 20 [], ecb 5 0 0 0 [], decOne (hex 0xc6a13b37878f5b826f4f8162a1c8d879) 0x200,
     accept 0x00000006 State.reset, accept 0x00000002 State.reset, ecb 4 0 4080 16 [],
     decOne (hex 0x7346139595c0b41e497bbde365f42d0a) 4082, { encAt 1 with abortReq := true }].map
      (fun s => (s.busy, (after (engineStep s)).map fun t => (t.errCode, t.phase)))
    = [0x00, 0x03, 0x04, 0x04, 0x05, 0x06, 0x07, 0x07, 0x08].map fun e => (true, some (e, .idle)) := by decide +kernel

/-- A state of the invariant in a phase ECB_DEC(k). -/
theorem inv_decAt_1 : (decAt 1).Inv :=
  ⟨bufInv_of (by decide +kernel), flagInv_of (by decide +kernel), decInv_of (k := 1) (by decide +kernel),
    by decide +kernel, by decide +kernel, by decide +kernel, by decide +kernel, by decide +kernel⟩

theorem witness_PadLengthNeverExceedsLength_writing : (decAt 1).Inv ∧ (decAt 1).phase = .ecbDec 1 := ⟨inv_decAt_1, rfl⟩

/-- A validation step of a state that meets the invariant, whose last byte is 0x00. -/
theorem witness_PadLengthNeverExceedsLength :
    (decOne (hex 0xc6a13b37878f5b826f4f8162a1c8d879) 0x200).Inv
    ∧ (decOne (hex 0xc6a13b37878f5b826f4f8162a1c8d879) 0x200).phase = .ecbDecValidate
    ∧ (after (engineStep (decOne (hex 0xc6a13b37878f5b826f4f8162a1c8d879) 0x200))).map (·.errCode) = some 0x04 :=
  ⟨⟨bufInv_of (by decide +kernel), flagInv_of (by decide +kernel), decInv_of (k := 0) (by decide +kernel)⟩, by decide,
    by decide +kernel⟩

end Sys2Proof.Tests
end

section
/-!
PROOF. The host's view of the registers and of BUF (O7, O50, O53): the rule of each accessor first, then the statements.
-/

namespace Sys2Proof

/-- 00_scope R13: byte i of a block whose column c is replaced: the new column's bytes are 4c .. 4c+3. -/
theorem Block.byte_setCol (b : Block) (c : Fin 4) (x : Col) (i : Fin 16) :
    (b.setCol c x).byte i = if i.val / 4 = c.val then x.row ⟨i.val % 4, Nat.mod_lt _ (by decide)⟩ else b.byte i := by
  unfold Block.byte Block.entry
  split
  · have hc : (⟨i.val / 4, by omega⟩ : Fin 4) = c := Fin.ext ‹_›
    rw [hc, Block.col_setCol_same]
  · have hc : (⟨i.val / 4, by omega⟩ : Fin 4) ≠ c := fun hc => ‹¬_› (congrArg Fin.val hc)
    rw [Block.col_setCol_other _ _ hc]

theorem Col.getElem?_toList (c : Col) (r : Fin 4) : c.toList[r.val]? = some (c.row r) := by
  fin_cases r <;> rfl

namespace Machine

/-! ### Registers -/

/-- 10_state R32: a flag's word holds the flag at its bit and zeros elsewhere. -/
theorem getLsbD_flagBit (b : Bool) {i : Nat} (hi : i < 32) (j : Nat) :
    (flagBit b i).getLsbD j = (b && decide (j = i)) := by
  unfold flagBit
  rcases Nat.lt_trichotomy j i with h | rfl | h
  · simp [h, h.ne]
  · simp [hi]
  · simp [h.ne', Nat.sub_ne_zero_of_lt h]

/-- 10_state R32: the bits of STATUS. -/
theorem getLsbD_statusWord (s : State) (i : Nat) : s.statusWord.getLsbD i = (match i with
    | 0 => decide (s.phase ≠ .idle)
    | 1 => s.done
    | 2 => s.ksValid
    | 3 => s.cmdDropped
    | 4 => s.abortReq
    | _ => false) := by
  simp only [State.statusWord, State.busy, BitVec.getLsbD_or, getLsbD_flagBit _ (show 0 < 32 by decide),
    getLsbD_flagBit _ (show 1 < 32 by decide), getLsbD_flagBit _ (show 2 < 32 by decide),
    getLsbD_flagBit _ (show 3 < 32 by decide), getLsbD_flagBit _ (show 4 < 32 by decide)]
  rcases i with _ | _ | _ | _ | _ | i <;> simp

/-- 10_state R32: a write to STATUS clears DONE and CMD_DROPPED where its bits 1 and 3 are set. -/
theorem writeStatus_eq (v : Word) (s : State) :
    writeStatus v s = { s with done := s.done && !v.getLsbD 1, cmdDropped := s.cmdDropped && !v.getLsbD 3 } := by
  unfold writeStatus acknowledge
  cases v.getLsbD 1 <;> cases v.getLsbD 3 <;> simp

/-- 10_state R50: every register reads 0 after reset. -/
theorem readReg_reset (r : Reg) : readReg r State.reset = 0 := by
  cases r with
  | key k => revert k; decide
  | blk k => revert k; decide
  | rk k => revert k; decide
  | _ => rfl

/-- 70 R320: the reset input gives every register its value after power-up. -/
theorem readReg_resetInput (r : Reg) (s : State) : readReg r (resetInput s) = readReg r State.reset := by
  cases r <;> rfl

/-- While idle a read at a register's offset answers the register's value. -/
theorem hostRead_offset_idle {s : State} (h : s.phase = .idle) (r : Reg) :
    hostRead r.offset 4 s = (⟨readReg r s, false⟩, s) :=
  hostRead_offset r s (by simp [State.busy, h])

/-- While idle a read at a register's offset is answered with the register's value. -/
theorem hostRead_response_idle {s : State} (h : s.phase = .idle) {r : Reg} {off : Nat} {v : Word} (hoff : r.offset = off)
    (hv : readReg r s = v) : (hostRead off 4 s).1 = ⟨v, false⟩ := by
  rw [← hoff, hostRead_offset_idle h, hv]

/-- The state after a write at a register's offset is the state after the write to that register. -/
theorem hostWrite_state_at {s t : State} {r : Reg} {off : Nat} {v : Word} (hoff : r.offset = off)
    (ht : writeReg r v s = t) : (hostWrite off 4 v s).2 = t := by
  rw [← hoff, hostWrite_offset, ht]

/-- A read-only register ignores a write, busy or not, and answers it without a bus error (20_memory R74). -/
theorem hostWrite_readOnly {r : Reg} (hr : ∀ v s, writeReg r v s = s) (v : Word) (s : State) :
    (hostWrite r.offset 4 v s).1.busError = false ∧ (hostWrite r.offset 4 v s).2 = s := by
  rw [hostWrite_offset]
  exact ⟨rfl, hr v s⟩

/-! ### Byte lanes (20_memory R72) -/

/-- 20_memory R72: byte j of a host word is bits [8j+7:8j]. -/
theorem row_unpackLanes (v : Word) (j : Fin 4) : (unpackLanes v).row j = v.extractLsb' (8 * j.val) 8 :=
  Col.row_ofRows (lane v) j

/-- GF_A, GF_B and a 1-byte access keep bits 7:0, and read back zero-extended. -/
theorem setWidth_setWidth_eq_and (v : Word) : (v.setWidth 8).setWidth 32 = v &&& 0xFF := by
  apply BitVec.eq_of_getLsbD_eq
  intro i hi
  interval_cases i <;> simp

/-- A host word written to BUF reads back byte by byte. -/
theorem read_writeWord (m : Memory) (a : Nat) (v : Word) (j : Fin 4) :
    (m.writeBytes a (unpackLanes v).toList).read (a + j.val) = v.extractLsb' (8 * j.val) 8 := by
  rw [Memory.read_writeBytes_inside _ _ _ (Col.getElem?_toList _ j), row_unpackLanes]

/-- A host word written to BUF reads back. -/
theorem readBufWord_writeWord (m : Memory) (a : Nat) (v : Word) :
    readBufWord (m.writeBytes a (unpackLanes v).toList) a = v := by
  simp only [readBufWord, read_writeWord]
  exact packLanes_unpackLanes v

/-! ### Accesses to BUF -/

section Idle

variable {s : State} (h : s.phase = .idle)
include h

theorem hostRead_bufWord_idle {a : Nat} (h4 : a % 4 = 0) (ha : a + 4 ≤ s.bufBytes) :
    hostRead (0x1000 + a) 4 s = (⟨readBufWord s.buf a, false⟩, s) := by
  simp [hostRead, target_bufWord h4 ha, State.busy, h, readTarget]

theorem hostRead_bufByte_idle {a : Nat} (ha : a < s.bufBytes) :
    hostRead (0x1000 + a) 1 s = (⟨(s.buf.read a).setWidth 32, false⟩, s) := by
  simp [hostRead, target_bufByte ha, State.busy, h, readTarget]

theorem hostWrite_bufWord_idle {a : Nat} (h4 : a % 4 = 0) (ha : a + 4 ≤ s.bufBytes) (v : Word) :
    (hostWrite (0x1000 + a) 4 v s).2 = { s with buf := s.buf.writeBytes a (unpackLanes v).toList } := by
  simp only [hostWrite, target_bufWord h4 ha, whenIdle_of_idle h]

theorem hostWrite_bufByte_idle {a : Nat} (ha : a < s.bufBytes) (v : Word) :
    (hostWrite (0x1000 + a) 1 v s).2 = { s with buf := s.buf.write a (v.setWidth 8) } := by
  simp only [hostWrite, target_bufByte ha, whenIdle_of_idle h]

/-- 10_state R30, R31, R33 to R37, R42: the control range read at its offsets. -/
theorem idle_control_reads :
    hostRead 0x0000 4 s = (⟨if s.ie then 1 else 0, false⟩, s)
    ∧ hostRead 0x0008 4 s = (⟨s.errCode.setWidth 32, false⟩, s) ∧ hostRead 0x000C 4 s = (⟨s.curCmd, false⟩, s)
    ∧ hostRead 0x0010 4 s = (⟨s.src, false⟩, s) ∧ hostRead 0x0014 4 s = (⟨s.dst, false⟩, s)
    ∧ hostRead 0x0018 4 s = (⟨s.len, false⟩, s) ∧ hostRead 0x001C 4 s = (⟨s.outlen, false⟩, s)
    ∧ hostRead 0x0020 4 s = (⟨s.blkcnt, false⟩, s) ∧ hostRead 0x0024 4 s = (⟨s.gfA.setWidth 32, false⟩, s)
    ∧ hostRead 0x0028 4 s = (⟨s.gfB.setWidth 32, false⟩, s) ∧ hostRead 0x002C 4 s = (⟨s.gfR.setWidth 32, false⟩, s) := by
  have hctrl : readReg .ctrl s = if s.ie then 1 else 0 := by
    unfold readReg State.ctrlWord
    cases s.ie <;> rfl
  exact ⟨hctrl ▸ hostRead_offset_idle h .ctrl, hostRead_offset_idle h .err, hostRead_offset_idle h .cmd,
    hostRead_offset_idle h .src, hostRead_offset_idle h .dst, hostRead_offset_idle h .len, hostRead_offset_idle h .outlen,
    hostRead_offset_idle h .blkcnt, hostRead_offset_idle h .gfA, hostRead_offset_idle h .gfB, hostRead_offset_idle h .gfR⟩

end Idle

/-! ### The statements -/

/-- Settles O7, by the reset values of State.reset and what the reset input keeps. -/
theorem resetGivesTheResetValues : Obligations.ResetGivesTheResetValues := by
  refine ⟨readReg_reset, fun _ => rfl, fun s rest he => ⟨resetInput { s with events := rest }, ?_, fun r => ?_, rfl, rfl,
    rfl, rfl, rfl, rfl, rfl, rfl, rfl, fun _ => rfl⟩⟩
  · simp only [step, he, onEvent]
  · rw [readReg_resetInput, readReg_reset]

/-- Settles O50, register by register and, for BUF, by the rules of a word and of a byte. -/
theorem idleWritesReadBack : Obligations.IdleWritesReadBack := by
  intro s v h
  have hgf : v.setWidth 8 = v.extractLsb' 0 8 := BitVec.setWidth_eq_extractLsb' (by decide)
  have hsrc : (hostWrite 0x0010 4 v s).2 = { s with src := v } :=
    hostWrite_state_at (r := .src) rfl (by rw [writeReg, whenIdle_of_idle h])
  have hdst : (hostWrite 0x0014 4 v s).2 = { s with dst := v } :=
    hostWrite_state_at (r := .dst) rfl (by rw [writeReg, whenIdle_of_idle h])
  have hlen : (hostWrite 0x0018 4 v s).2 = { s with len := v } :=
    hostWrite_state_at (r := .len) rfl (by rw [writeReg, whenIdle_of_idle h])
  have hgfA : (hostWrite 0x0024 4 v s).2 = { s with gfA := v.setWidth 8 } :=
    hostWrite_state_at (r := .gfA) rfl (by rw [writeReg, whenIdle_of_idle h])
  have hgfB : (hostWrite 0x0028 4 v s).2 = { s with gfB := v.setWidth 8 } :=
    hostWrite_state_at (r := .gfB) rfl (by rw [writeReg, whenIdle_of_idle h])
  refine ⟨idle_control_reads h, ⟨hsrc, hdst, hlen, hgf ▸ hgfA, hgf ▸ hgfB⟩, ?_, ?_, fun k => ?_, fun k => ?_,
    fun a h4 ha => ?_, fun a ha => ?_⟩
  · simp only [List.forall_mem_cons, hsrc, hdst, hlen]
    exact ⟨hostRead_response_idle (s := { s with src := v }) (r := .src) h rfl rfl,
      hostRead_response_idle (s := { s with dst := v }) (r := .dst) h rfl rfl,
      hostRead_response_idle (s := { s with len := v }) (r := .len) h rfl rfl, nofun⟩
  · simp only [List.forall_mem_cons, hgfA, hgfB]
    exact ⟨hostRead_response_idle (s := { s with gfA := v.setWidth 8 }) (r := .gfA) h rfl (setWidth_setWidth_eq_and v),
      hostRead_response_idle (s := { s with gfB := v.setWidth 8 }) (r := .gfB) h rfl (setWidth_setWidth_eq_and v), nofun⟩
  · refine ⟨s.key.setCol k (unpackLanes v), hostWrite_state_at (r := .key k) rfl (by rw [writeReg, whenIdle_of_idle h]),
      fun i => ?_, hostRead_response_idle (s := { s with key := s.key.setCol k (unpackLanes v) }) (r := .key k) h rfl ?_⟩
    · rw [Block.byte_setCol, row_unpackLanes]
    · rw [readReg, Block.col_setCol_same, packLanes_unpackLanes]
  · refine ⟨s.blk.setCol k (unpackLanes v), hostWrite_state_at (r := .blk k) rfl (by rw [writeReg, whenIdle_of_idle h]),
      fun i => ?_, hostRead_response_idle (s := { s with blk := s.blk.setCol k (unpackLanes v) }) (r := .blk k) h rfl ?_⟩
    · rw [Block.byte_setCol, row_unpackLanes]
    · rw [readReg, Block.col_setCol_same, packLanes_unpackLanes]
  · refine ⟨_, hostWrite_bufWord_idle h h4 ha v, read_writeWord s.buf a v,
      fun x hx => Memory.read_writeBytes_outside _ _ (unpackLanes v).toList hx, ?_⟩
    rw [hostRead_bufWord_idle (s := { s with buf := s.buf.writeBytes a (unpackLanes v).toList }) h h4 ha,
      readBufWord_writeWord]
  · refine ⟨_, hostWrite_bufByte_idle h ha v, ?_, fun x hx => Memory.read_write_other _ _ (by omega), ?_⟩
    · rw [Memory.read_write_same, hgf]
    · rw [hostRead_bufByte_idle (s := { s with buf := s.buf.write a (v.setWidth 8) }) h ha, Memory.read_write_same,
        setWidth_setWidth_eq_and]

/-- Settles O53, by the bits of STATUS, the effect of a write to it, and the registers that ignore writes. -/
theorem statusBitsAndReadOnlyRegisters : Obligations.StatusBitsAndReadOnlyRegisters := by
  refine ⟨fun s => ?_, fun s v => ?_, fun s v off hoff => ?_⟩
  · have hstatus : hostRead 0x0004 4 s = (⟨s.statusWord, false⟩, s) := hostRead_offset .status s (Bool.and_false _)
    rw [hstatus]
    exact ⟨rfl, rfl, getLsbD_statusWord s, hostRead_offset .err s (Bool.and_false _)⟩
  · have hwrite : hostWrite 0x0004 4 v s = (⟨0, false⟩, writeStatus v s) := hostWrite_offset .status v s
    rw [hwrite]
    exact ⟨rfl, writeStatus_eq v s⟩
  · rcases hoff with rfl | rfl | rfl | rfl | ⟨k, rfl⟩
    · exact hostWrite_readOnly (r := .err) (fun _ _ => rfl) v s
    · exact hostWrite_readOnly (r := .outlen) (fun _ _ => rfl) v s
    · exact hostWrite_readOnly (r := .blkcnt) (fun _ _ => rfl) v s
    · exact hostWrite_readOnly (r := .gfR) (fun _ _ => rfl) v s
    · exact hostWrite_readOnly (r := .rk k) (fun _ _ => rfl) v s

end Machine
end Sys2Proof
end

section
/-!
PROOF. Every step keeps the invariant of the block (O55, O56): how BUF, the schedule and the phase's facts pass from a state
to the next, then one lemma for each kind of step.
-/

namespace Sys2Proof.Machine

/-! ### The decoder (30_encoding R100, R103) -/

/-- 30_encoding R100: a word is its three fields. -/
theorem fields_append (w : Word) : rsvField w ++ ridxField w ++ opField w = w := by
  apply BitVec.eq_of_getLsbD_eq
  intro i hi
  simp only [rsvField, ridxField, opField, BitVec.getLsbD_append, BitVec.getLsbD_extractLsb']
  interval_cases i <;> rfl

/-- A command without an operand field stands under its own opcode, with a zero RIDX. -/
theorem opcode_of_plainOpcodes : ∀ p ∈ plainOpcodes, p.2.opcode = p.1 ∧ p.2.ridx = 0 := by decide

/-- The fields of a word that decodes are those of its command. -/
theorem fields_of_decode {w : Word} {i : Instr} (h : decode w = .ok i) :
    rsvField w = 0 ∧ ridxField w = i.ridx ∧ opField w = i.opcode := by
  unfold decode at h
  split at h
  · cases h
  rename_i hrsv
  split at h
  · split at h
    · cases h
      exact ⟨not_not.1 hrsv, rfl, ‹_›⟩
    · cases h
  · split at h
    · cases h
    · rename_i i' hlook
      split at h
      · rename_i hridx
        cases h
        obtain ⟨before, after, heq, -⟩ := List.lookup_eq_some_iff.1 hlook
        obtain ⟨hop, hz⟩ := opcode_of_plainOpcodes (opField w, i) (heq ▸ List.mem_append_right before List.mem_cons_self)
        exact ⟨not_not.1 hrsv, hridx.trans hz.symm, hop.symm⟩
      · cases h

/-- Only the encoding of a command decodes to it. -/
theorem encode_of_decode {w : Word} {i : Instr} (h : decode w = .ok i) : encode i = w := by
  obtain ⟨hrsv, hridx, hop⟩ := fields_of_decode h
  rw [encode, ← hrsv, ← hridx, ← hop, fields_append]

/-! ### BUF and the schedule -/

/-- 10_state R41, 70 R324: RK is the expansion of a key when KS_VALID = 1 and its reset value when KS_VALID = 0. -/
def State.ScheduleInv (s : State) : Prop :=
  (s.ksValid = true → ∃ key, s.rk = keyExpand key) ∧ (s.ksValid = false → s.rk = .zero)

theorem State.FlagInv.scheduleInv {s : State} (h : s.FlagInv) : s.ScheduleInv := ⟨h.schedule, h.noSchedule⟩

theorem scheduleInv_loadSchedule (s : State) : (loadSchedule s).ScheduleInv := ⟨fun _ => ⟨s.key, rfl⟩, nofun⟩

theorem State.BufInv.congr {s t : State} (h : s.BufInv) (hsize : t.bufBytes = s.bufBytes) (hbuf : t.buf = s.buf) :
    t.BufInv :=
  ⟨hsize ▸ h.legal, hbuf ▸ h.wf, hsize ▸ hbuf ▸ h.inside⟩

/-- BUF stays in canonical form and in its bounds when bytes inside the bounds are written. -/
theorem State.BufInv.writeBytes {s t : State} (h : s.BufInv) {a : Nat} {xs : List Byte}
    (hx : xs = [] ∨ a + xs.length ≤ s.bufBytes) (hsize : t.bufBytes = s.bufBytes) (hbuf : t.buf = s.buf.writeBytes a xs) :
    t.BufInv :=
  ⟨hsize ▸ h.legal, hbuf ▸ Memory.wf_writeBytes a xs h.wf, hsize ▸ hbuf ▸ Memory.inside_writeBytes xs h.inside hx⟩

/-- What the engine's guard says of the bytes it writes (20_memory R78). -/
theorem writable_of_bufHolds {s : State} {a n : Nat} {xs : List Byte} (h : s.bufHolds a n = true)
    (hn : xs.length = n) : xs = [] ∨ a + xs.length ≤ s.bufBytes := by
  simp only [State.bufHolds, Bool.or_eq_true, decide_eq_true_eq] at h
  rw [hn, ← List.length_eq_zero_iff, hn]
  exact h

/-! ### Frames -/

/-- The phase's facts speak of no flag, of no byte of BUF, of no result and of no field of the environment. -/
theorem State.PhaseInv.frame {s t : State} (h : s.PhaseInv)
    (ht : t = { s with
      ie := t.ie, done := t.done, cmdDropped := t.cmdDropped, abortReq := t.abortReq, errCode := t.errCode,
      outlen := t.outlen, gfA := t.gfA, gfB := t.gfB, gfR := t.gfR, blk := t.blk, buf := t.buf, events := t.events,
      responses := t.responses, draws := t.draws }) : t.PhaseInv := by
  rw [ht]
  unfold State.PhaseInv at h ⊢
  dsimp only
  split at h
  · trivial
  · exact h
  · obtain ⟨cmd, count, pad, index, src, dst, valid, schedule, blocks⟩ := h
    exact ⟨cmd, count, pad, index, src, dst, valid, schedule, blocks⟩
  · obtain ⟨cmd, whole, nonempty, count, src, valid, schedule, blocks⟩ := h
    exact ⟨cmd, whole, nonempty, count, src, valid, schedule, blocks⟩
  · obtain ⟨⟨cmd, whole, nonempty, count, src, valid, schedule, blocks⟩, index, pad, low, high, dst⟩ := h
    exact ⟨⟨cmd, whole, nonempty, count, src, valid, schedule, blocks⟩, index, pad, low, high, dst⟩

/-- The invariant speaks of no field of the environment. -/
theorem State.Inv.sameBlock {s t : State} (h : s.Inv) (ht : SameBlock s t) : t.Inv := by
  obtain ⟨code, out, schedule, noSchedule, running, abort⟩ := h.flags
  rw [ht]
  exact ⟨h.buf.congr rfl rfl, ⟨code, out, schedule, noSchedule, running, abort⟩, h.phase.frame rfl⟩

/-! ### Engine steps -/

/-- A completion: an idle block, with OUTLEN 0 under a nonzero code. -/
theorem inv_finish {e : ErrKind} {s : State} (hbuf : s.BufInv) (hschedule : s.ScheduleInv)
    (hcode : e.code ∈ writtenCodes) (hout : e.code ≠ 0 → s.outlen = 0) : (finish e s).Inv :=
  ⟨hbuf.congr rfl rfl, ⟨hcode, hout, hschedule.1, hschedule.2, nofun, nofun⟩, trivial⟩

/-- A completion without an error. -/
theorem inv_finish_none {s : State} (hbuf : s.BufInv) (hschedule : s.ScheduleInv) : (finish .none s).Inv :=
  inv_finish hbuf hschedule (by decide) (by simp [ErrKind.code])

/-- 45 R261, 44 R230: the flags' facts stay while a running command moves to another running phase and its flags stay. -/
theorem State.FlagInv.running_step {s t : State} (h : s.FlagInv) (hs : s.busy = true) (ht : t.busy = true)
    (hschedule : t.ScheduleInv)
    (hflags : t.done = s.done ∧ t.errCode = s.errCode ∧ t.outlen = s.outlen ∧ t.abortReq = s.abortReq
      ∧ t.curCmd = s.curCmd) : t.FlagInv := by
  obtain ⟨hdone, hcode, hout, habort, hcmd⟩ := hflags
  have habortable : t.abortable = s.abortable := by rw [State.abortable, State.abortable, ht, hs, hcmd]
  refine ⟨hcode ▸ h.code, ?_, hschedule.1, hschedule.2, ?_, ?_⟩
  · rw [hcode, hout]
    exact h.outlenAfterError
  · rw [hdone, hcode, hout]
    exact fun _ => h.running hs
  · rw [habort, habortable]
    exact h.abort

/-- BLKCNT counts the blocks without wrapping: an index below the number of blocks in BUF is far below 2^32. -/
theorem blkcnt_succ {s : State} {k : Nat} (hs : s.Inv) (hcount : s.blkcnt.toNat = k) (hk : 16 * k ≤ s.bufBytes) :
    (s.blkcnt + 1).toNat = k + 1 := by
  have hlegal := hs.buf.legal
  simp only [Config.bufBytesLegal, Bool.and_eq_true, decide_eq_true_eq] at hlegal
  bv_omega

section Running

variable {s t : State} (hs : s.Inv) (hbusy : s.busy = true)
include hs hbusy

/-- An error of a running command changes neither BUF nor the schedule, and OUTLEN is 0 until a completion. -/
theorem State.Inv.raise {e : ErrKind} {u : State} (hcode : e.code ∈ writtenCodes)
    (hu : u = { s with n := u.n, padLen := u.padLen, w := u.w }) : (finish e u).Inv := by
  rw [hu]
  exact inv_finish (hs.buf.congr rfl rfl) hs.flags.scheduleInv hcode fun _ => (hs.flags.running hbusy).2.2

/-- The setup step of ECB_ENC (44 R221). -/
theorem inv_of_execEcbEnc (hcmd : s.curCmd = encode .ecbEnc) (hcount : s.blkcnt = 0) (h : execEcbEnc s = .next t) :
    t.Inv := by
  rcases execEcbEnc_next h with ⟨-, rfl⟩ | ⟨hsrc, hdst, rfl⟩
  · exact hs.raise hbusy (by decide) rfl
  · exact ⟨hs.buf.congr rfl rfl, hs.flags.running_step hbusy rfl (scheduleInv_loadSchedule s) ⟨rfl, rfl, rfl, rfl, rfl⟩,
      hcmd, rfl, rfl, Nat.succ_pos _, hsrc, hdst, rfl, rfl, congrArg BitVec.toNat hcount⟩

/-- The setup step of ECB_DEC (44 R225). -/
theorem inv_of_execEcbDec (hcmd : s.curCmd = encode .ecbDec) (hcount : s.blkcnt = 0) (h : execEcbDec s = .next t) :
    t.Inv := by
  rcases execEcbDec_next h with ⟨-, rfl⟩ | ⟨-, -, rfl⟩ | ⟨-, -, rfl⟩ | ⟨hwhole, hne, hsrc, rfl⟩
  · exact hs.raise hbusy (by decide) rfl
  · exact hs.raise hbusy (by decide) rfl
  · exact hs.raise hbusy (by decide) rfl
  · exact ⟨hs.buf.congr rfl rfl, hs.flags.running_step hbusy rfl (scheduleInv_loadSchedule s) ⟨rfl, rfl, rfl, rfl, rfl⟩,
      hcmd, hwhole, Nat.pos_of_ne_zero hne, rfl, hsrc, rfl, rfl, congrArg BitVec.toNat hcount⟩

/-- The first step of a command (45 R264). -/
theorem inv_of_exec {i : Instr} (hcmd : s.curCmd = encode i) (hcount : s.blkcnt = 0) (h : exec i s = .next t) :
    t.Inv := by
  rcases exec_next h with ⟨-, rfl⟩ | ⟨-, rfl⟩ | ⟨-, rfl⟩ | ⟨-, -, -, b, rfl⟩ | ⟨-, -, rfl⟩ | ⟨-, rfl⟩ | ⟨rfl, h⟩ | ⟨rfl, h⟩
  · exact inv_finish_none hs.buf hs.flags.scheduleInv
  · exact inv_finish_none (hs.buf.congr rfl rfl) (scheduleInv_loadSchedule s)
  · exact inv_finish_none (hs.buf.congr rfl rfl) hs.flags.scheduleInv
  · exact inv_finish_none (hs.buf.congr rfl rfl) hs.flags.scheduleInv
  · exact hs.raise hbusy (by decide) rfl
  · exact hs.raise hbusy (by decide) rfl
  · exact inv_of_execEcbEnc hs hbusy hcmd hcount h
  · exact inv_of_execEcbDec hs hbusy hcmd hcount h

/-- A block step of ECB_ENC (44 R222). -/
theorem inv_of_ecbEncBlock {k : Nat} (hphase : s.EncInv k) (h : ecbEncBlock k s = .next t) : t.Inv := by
  obtain ⟨-, -, hholds, hend⟩ := ecbEncBlock_next h
  have hbuf : (encWrite s k).BufInv :=
    hs.buf.writeBytes (writable_of_bufHolds hholds (Block.length_toList _)) rfl (encWrite_buf s k)
  rcases hend with ⟨-, rfl⟩ | ⟨hlast, rfl⟩
  · exact inv_finish_none (hbuf.congr rfl rfl) hs.flags.scheduleInv
  · obtain ⟨cmd, count, pad, index, src, dst, valid, schedule, blocks⟩ := hphase
    exact ⟨hbuf.congr rfl rfl, hs.flags.running_step hbusy rfl hs.flags.scheduleInv ⟨rfl, rfl, rfl, rfl, rfl⟩,
      cmd, count, pad, Nat.lt_of_le_of_ne index hlast, src, dst, valid, schedule,
      blkcnt_succ hs blocks (by omega)⟩

/-- The validation step of ECB_DEC (44 R226). -/
theorem inv_of_ecbDecValidate (hphase : s.DecInv 0) (h : ecbDecValidate s = .next t) : t.Inv := by
  obtain ⟨hn, -, w, -, ⟨-, rfl⟩ | ⟨-, -, rfl⟩ | ⟨⟨hlow, hhigh, -⟩, hdst, rfl⟩⟩ := ecbDecValidate_next h
  · exact hs.raise hbusy (by decide) rfl
  · exact hs.raise hbusy (by decide) rfl
  · obtain ⟨cmd, whole, nonempty, count, src, valid, schedule, blocks⟩ := hphase
    exact ⟨hs.buf.congr rfl rfl, hs.flags.running_step hbusy rfl hs.flags.scheduleInv ⟨rfl, rfl, rfl, rfl, rfl⟩,
      ⟨cmd, whole, nonempty, count, src, valid, schedule, blocks⟩, Nat.pos_of_ne_zero hn, rfl, hlow, hhigh, hdst⟩

/-- A block step or the final step of ECB_DEC (44 R227, R228). -/
theorem inv_of_ecbDecBlock {k : Nat} (hphase : s.DecInv k ∧ s.DecWriteInv k) (h : ecbDecBlock k s = .next t) : t.Inv := by
  rcases ecbDecBlock_next h with ⟨hk, -, hholds, rfl⟩ | ⟨-, -, -, hholds, rfl⟩
  · obtain ⟨⟨cmd, whole, nonempty, count, src, valid, schedule, blocks⟩, -, pad, low, high, dst⟩ := hphase
    have hbytes := writable_of_bufHolds hholds
      (Block.length_toList (invCipher (s.buf.readBlock (s.src.toNat + 16 * k)) s.rk))
    exact ⟨hs.buf.writeBytes hbytes rfl rfl,
      hs.flags.running_step hbusy rfl hs.flags.scheduleInv ⟨rfl, rfl, rfl, rfl, rfl⟩,
      ⟨cmd, whole, nonempty, count, src, valid, schedule, blkcnt_succ hs blocks (by omega)⟩,
      hk, pad, low, high, dst⟩
  · have hlen : (s.w.toList.take (16 - s.padLen)).length = 16 - s.padLen := by simp
    exact inv_finish_none (hs.buf.writeBytes (writable_of_bufHolds hholds hlen) rfl rfl) hs.flags.scheduleInv

end Running

/-- Every engine step keeps the invariant. -/
theorem inv_of_engineStep {s t : State} (hs : s.Inv) (h : engineStep s = .next t) : t.Inv := by
  have hphase := hs.phase
  unfold State.PhaseInv at hphase
  rcases engineStep_next h with ⟨-, rfl⟩ | ⟨w, hp, -, rfl⟩ | ⟨w, i, hp, hd, h⟩ | ⟨hp, -, rfl⟩ | ⟨k, hp, -, h⟩ | ⟨hp, -, h⟩
    | ⟨k, hp, -, h⟩
  · exact hs
  · exact hs.raise (by simp [State.busy, hp]) (by decide) rfl
  · rw [hp] at hphase
    obtain ⟨hcmd, hcount⟩ := hphase
    exact inv_of_exec hs (by simp [State.busy, hp]) (hcmd.trans (encode_of_decode hd).symm) hcount h
  · refine hs.raise ?_ (by decide) rfl
    rcases hp with hp | ⟨k, hp | hp⟩ <;> simp [State.busy, hp]
  · rw [hp] at hphase
    exact inv_of_ecbEncBlock hs (by simp [State.busy, hp]) hphase h
  · rw [hp] at hphase
    exact inv_of_ecbDecValidate hs (by simp [State.busy, hp]) hphase h
  · rw [hp] at hphase
    exact inv_of_ecbDecBlock hs (by simp [State.busy, hp]) hphase h

/-! ### Host writes and reset -/

theorem inv_of_writeCtrl {s : State} (hs : s.Inv) (v : Word) : (writeCtrl v s).Inv := by
  obtain ⟨code, out, schedule, noSchedule, running, abort⟩ := hs.flags
  refine ⟨hs.buf.congr rfl rfl, ⟨code, out, schedule, noSchedule, running, fun h => ?_⟩, hs.phase.frame rfl⟩
  change (s.abortReq || (v.getLsbD 1 && s.abortable)) = true at h
  rw [Bool.or_eq_true, Bool.and_eq_true] at h
  exact h.elim abort And.right

theorem inv_of_writeStatus {s : State} (hs : s.Inv) (v : Word) : (writeStatus v s).Inv := by
  obtain ⟨code, out, schedule, noSchedule, running, abort⟩ := hs.flags
  rw [writeStatus_eq]
  refine ⟨hs.buf.congr rfl rfl, ⟨code, out, schedule, noSchedule, fun h => ?_, abort⟩, hs.phase.frame rfl⟩
  obtain ⟨hdone, hcode, hout⟩ := running h
  exact ⟨by simp [hdone], hcode, hout⟩

theorem inv_of_cmdDropped {s : State} (hs : s.Inv) : ({ s with cmdDropped := true } : State).Inv := by
  obtain ⟨code, out, schedule, noSchedule, running, abort⟩ := hs.flags
  exact ⟨hs.buf.congr rfl rfl, ⟨code, out, schedule, noSchedule, running, abort⟩, hs.phase.frame rfl⟩

/-- 45 R261: acceptance clears the results and starts the command. -/
theorem inv_of_accept {s : State} (hs : s.Inv) (w : Word) : (accept w s).Inv :=
  ⟨hs.buf.congr rfl rfl,
    ⟨List.mem_cons_self, fun _ => rfl, hs.flags.schedule, hs.flags.noSchedule, fun _ => ⟨rfl, rfl, rfl⟩, nofun⟩, rfl, rfl⟩

/-- While idle nothing is asked of the operands, and of BUF only its form and its bounds. -/
theorem inv_of_idle {s t : State} (hs : s.Inv) (hidle : s.busy = false) (hbuf : t.BufInv)
    (ht : t = { s with
      src := t.src, dst := t.dst, len := t.len, gfA := t.gfA, gfB := t.gfB, key := t.key, blk := t.blk,
      buf := t.buf }) : t.Inv := by
  obtain ⟨code, out, schedule, noSchedule, running, abort⟩ := hs.flags
  have hphase : t.phase = .idle := by
    rw [ht]
    simpa [State.busy] using hidle
  refine ⟨hbuf, ?_, ?_⟩
  · rw [ht]
    exact ⟨code, out, schedule, noSchedule, running, abort⟩
  · simp only [State.PhaseInv, hphase]

/-- Every host write keeps the invariant. -/
theorem inv_of_hostWrite {s : State} (hs : s.Inv) (off size : Nat) (v : Word) : (hostWrite off size v s).2.Inv := by
  rcases hostWrite_state off size v s with h | ⟨-, -, h⟩ | ⟨-, -, h⟩ | ⟨-, -, -, h⟩ | ⟨-, -, -, h⟩
    | ⟨hidle, src, dst, len, gfA, gfB, key, blk, h⟩ | ⟨hidle, a, xs, hxs, h⟩ <;> rw [h]
  · exact hs
  · exact inv_of_writeCtrl hs v
  · exact inv_of_writeStatus hs v
  · exact inv_of_cmdDropped hs
  · exact inv_of_accept hs v
  · exact inv_of_idle hs hidle (hs.buf.congr rfl rfl) rfl
  · exact inv_of_idle hs hidle (hs.buf.writeBytes (.inr hxs) rfl rfl) rfl

/-- Reset keeps BUF and its size; the rest of the invariant holds of the reset values. -/
theorem inv_of_resetInput {s : State} (hs : s.BufInv) : (resetInput s).Inv :=
  ⟨hs.congr rfl rfl, ⟨List.mem_cons_self, fun _ => rfl, nofun, fun _ => rfl, nofun, nofun⟩, trivial⟩

/-- Settles O56, by what each kind of step can do: an engine step, a host write, reset, or an event that leaves the block
as it is. -/
theorem everyStepKeepsTheInvariant : Obligations.EveryStepKeepsTheInvariant := by
  intro s t hs h
  have hrest : ∀ rest, ({ s with events := rest } : State).Inv := fun _ => hs.sameBlock rfl
  rcases step_next h with ⟨-, h⟩ | ⟨rest, -, h⟩ | ⟨-, -, h⟩ | ⟨off, size, v, rest, -, rfl⟩ | ⟨rest, -, rfl⟩
  · exact inv_of_engineStep hs h
  · exact inv_of_engineStep (hrest rest) h
  · exact hs.sameBlock h
  · exact (inv_of_hostWrite (hrest rest) off size v).sameBlock rfl
  · exact inv_of_resetInput (hrest rest).buf

/-- Settles O55: BUF is empty, its size legal, and every other field has its reset value. -/
theorem resetMeetsTheInvariant : Obligations.ResetMeetsTheInvariant :=
  inv_of_resetInput (s := State.reset) ⟨by decide, rfl, rfl⟩

end Sys2Proof.Machine
end

section
/-!
PROOF. Host accesses and the frame and progress of the engine (O27, O48, O49, O51, O52, O57): which accesses are legal and
what each kind of access answers, then what no engine step writes, then that under the invariant every step exists.
-/

namespace Sys2Proof

/-- 00_scope R14: byte 4c + r is the entry of column c and row r. -/
theorem Block.row_col_eq_byte (b : Block) (c r : Fin 4) :
    (b.col c).row r = b.byte ⟨4 * c.val + r.val, by omega⟩ :=
  (b.entry_eq_byte r c).trans (congrArg b.byte (Fin.ext (Nat.add_comm _ _)))

namespace Machine

/-! ### Legal accesses (20_memory R71, R75) -/

/-- 20_memory R71, R75: the accesses inside the window that are no bus errors. -/
def LegalAccess (bufBytes off size : Nat) : Prop :=
  (size = 4 ∧ off % 4 = 0 ∧ (off < 0x0030 ∨ (0x0040 ≤ off ∧ off < 0x0060) ∨ (0x0100 ≤ off ∧ off < 0x01B0)
      ∨ (0x1000 ≤ off ∧ off + 4 ≤ 0x1000 + bufBytes)))
    ∨ (size = 1 ∧ 0x1000 ≤ off ∧ off < 0x1000 + bufBytes)

/-- 10_state R30: the aligned offsets of the three register ranges, and no others, name a register. -/
theorem Reg.ofOffset_eq_none_iff (off : Nat) :
    Reg.ofOffset off = none
      ↔ ¬(off % 4 = 0 ∧ (off < 0x0030 ∨ (0x0040 ≤ off ∧ off < 0x0060) ∨ (0x0100 ≤ off ∧ off < 0x01B0))) := by
  unfold Reg.ofOffset
  split
  · simp only [true_iff]; omega
  split
  · rw [List.getElem?_eq_none_iff, show controlRegs.length = 12 from rfl]
    omega
  split
  · simp only [reduceCtorEq, false_iff]; omega
  split
  · simp only [reduceCtorEq, false_iff]; omega
  split
  · simp only [reduceCtorEq, false_iff]; omega
  · simp only [true_iff]; omega

/-- What an access reaches: a register at its offset, a word or a byte inside BUF, or a bus error. -/
theorem target_cases (bufBytes off size : Nat) :
    (∃ r : Reg, r.offset = off ∧ size = 4 ∧ target bufBytes off size = .reg r)
    ∨ (∃ a, off = 0x1000 + a ∧ size = 4 ∧ a % 4 = 0 ∧ a + 4 ≤ bufBytes ∧ target bufBytes off size = .bufWord a)
    ∨ (∃ a, off = 0x1000 + a ∧ size = 1 ∧ a < bufBytes ∧ target bufBytes off size = .bufByte a)
    ∨ (¬LegalAccess bufBytes off size ∧ target bufBytes off size = .busError) := by
  unfold target LegalAccess bufOffset
  split
  · split
    · exact .inl ⟨_, Reg.offset_of_ofOffset ‹_›, ‹_›, rfl⟩
    · rename_i hnone
      rw [Reg.ofOffset_eq_none_iff] at hnone
      split
      · exact .inr (.inl ⟨_, by omega, ‹_›, by omega, by omega, rfl⟩)
      · exact .inr (.inr (.inr ⟨by omega, rfl⟩))
  split
  · split
    · exact .inr (.inr (.inl ⟨_, by omega, ‹_›, by omega, rfl⟩))
    · exact .inr (.inr (.inr ⟨by omega, rfl⟩))
  · exact .inr (.inr (.inr ⟨by omega, rfl⟩))

/-- 10_state R30: every register lies at a legal offset. -/
theorem legalAccess_offset (bufBytes : Nat) (r : Reg) : LegalAccess bufBytes r.offset 4 := by
  have hreg := (Reg.ofOffset_eq_none_iff r.offset).not.1 (by simp)
  unfold LegalAccess
  omega

theorem legalAccess_bufWord {bufBytes a : Nat} (h4 : a % 4 = 0) (ha : a + 4 ≤ bufBytes) :
    LegalAccess bufBytes (0x1000 + a) 4 :=
  .inl ⟨rfl, by omega, by omega⟩

theorem legalAccess_bufByte {bufBytes a : Nat} (ha : a < bufBytes) : LegalAccess bufBytes (0x1000 + a) 1 :=
  .inr ⟨rfl, by omega, by omega⟩

/-- An access is a bus error exactly when it is not legal. -/
theorem target_eq_busError_iff (bufBytes off size : Nat) :
    target bufBytes off size = .busError ↔ ¬LegalAccess bufBytes off size := by
  rcases target_cases bufBytes off size with ⟨r, rfl, rfl, h⟩ | ⟨a, rfl, rfl, h4, ha, h⟩ | ⟨a, rfl, rfl, ha, h⟩ | ⟨hl, h⟩
  · simp [h, legalAccess_offset]
  · simp [h, legalAccess_bufWord h4 ha]
  · simp [h, legalAccess_bufByte ha]
  · simp [h, hl]

/-! ### Host accesses -/

section Access

variable {s : State} {off size : Nat}

/-- 20_memory R73: a read that is a bus error answers 0 and changes nothing. -/
theorem hostRead_of_busError (h : target s.bufBytes off size = .busError) : hostRead off size s = (⟨0, true⟩, s) := by
  simp only [hostRead, h]

/-- 20_memory R73: a write that is a bus error changes nothing. -/
theorem hostWrite_of_busError (h : target s.bufBytes off size = .busError) (v : Word) :
    hostWrite off size v s = (⟨0, true⟩, s) := by
  simp only [hostWrite, h]

/-- A read that reaches something answers a free value or the value of what it reaches. -/
theorem hostRead_of_ne_busError (h : target s.bufBytes off size ≠ .busError) :
    hostRead off size s =
      if s.busy && unspecifiedWhileBusy (target s.bufBytes off size) then
        (⟨busyValue (target s.bufBytes off size) s.draws, false⟩, { s with draws := s.draws + 1 })
      else (⟨readTarget (target s.bufBytes off size) s, false⟩, s) := by
  unfold hostRead
  split
  · exact absurd ‹_› h
  · rfl

/-- 20_memory R71: a read of something legal is answered without a bus error. -/
theorem hostRead_busError_of_ne (h : target s.bufBytes off size ≠ .busError) :
    (hostRead off size s).1.busError = false := by
  rw [hostRead_of_ne_busError h]
  split <;> rfl

/-- 20_memory R71: a write to something legal is answered without a bus error. -/
theorem hostWrite_busError_of_ne (h : target s.bufBytes off size ≠ .busError) (v : Word) :
    (hostWrite off size v s).1.busError = false := by
  unfold hostWrite
  split
  · exact absurd ‹_› h
  · rfl
  · rfl
  · rfl

end Access

/-- 20_memory R77: an access to OUTLEN, GF_R, BLK, RK or BUF reaches an unspecified value while BUSY = 1, or is a bus error. -/
theorem unspecifiedWhileBusy_of_result_range {bufBytes off size : Nat}
    (hoff : 0x1000 ≤ off ∨ 0x0100 ≤ off ∧ off < 0x01B0 ∨ 0x0050 ≤ off ∧ off < 0x0060 ∨ off = 0x001C ∨ off = 0x002C) :
    target bufBytes off size = .busError ∨ unspecifiedWhileBusy (target bufBytes off size) = true := by
  rcases target_cases bufBytes off size with ⟨r, rfl, -, h⟩ | ⟨a, -, -, -, -, h⟩ | ⟨a, -, -, -, h⟩ | ⟨-, h⟩
  · rw [h]
    cases r with
    | outlen | gfR | blk | rk => exact .inr rfl
    | _ =>
      simp only [Reg.offset] at hoff
      omega
  · exact .inr (h ▸ rfl)
  · exact .inr (h ▸ rfl)
  · exact .inl h

/-- 20_memory R77: two busy blocks that agree on the count of free values answer a read of a result alike. -/
theorem hostRead_response_busy {s s' : State} {off size : Nat} (hs : s.phase ≠ .idle) (hs' : s'.phase ≠ .idle)
    (hsize : s.bufBytes = s'.bufBytes) (hdraws : s.draws = s'.draws)
    (h : target s.bufBytes off size = .busError ∨ unspecifiedWhileBusy (target s.bufBytes off size) = true) :
    (hostRead off size s).1 = (hostRead off size s').1 := by
  by_cases hbus : target s.bufBytes off size = .busError
  · rw [hostRead_of_busError hbus, hostRead_of_busError (hsize ▸ hbus)]
  · have hfree := h.resolve_left hbus
    rw [hostRead_of_ne_busError hbus, hostRead_of_ne_busError (hsize ▸ hbus), ← hsize, ← hdraws, hfree]
    simp [State.busy, hs, hs']

/-- 20_memory R72: byte j of four packed bytes is the byte in row j. -/
theorem extractLsb'_packLanes (c : Col) (j : Fin 4) : (packLanes c).extractLsb' (8 * j.val) 8 = c.row j := by
  apply BitVec.eq_of_getLsbD_eq
  intro i hi
  simp only [packLanes, BitVec.getLsbD_extractLsb', BitVec.getLsbD_append]
  fin_cases j <;> interval_cases i <;> rfl

/-- 10_state R40: RKk with k = 4r + c is column c of RK[r]. -/
theorem rkColumn_eq (rk : RoundKeys) (r : Fin 11) (c : Fin 4) :
    rkColumn rk ⟨4 * r.val + c.val, by omega⟩ = (rk.get r).col c := by
  have hr : (⟨(4 * r.val + c.val) / 4, by omega⟩ : Fin 11) = r := Fin.ext (by simp only; omega)
  have hc : (⟨(4 * r.val + c.val) % 4, Nat.mod_lt _ (by decide)⟩ : Fin 4) = c := Fin.ext (by simp only; omega)
  rw [rkColumn, hr, hc]

/-- While idle, byte j of the word read at the register of column c of a block is byte 4c + j of the block. -/
theorem hostRead_column_idle {s : State} (h : s.phase = .idle) {r : Reg} {off : Nat} {b : Block} {c : Fin 4}
    (hoff : r.offset = off) (hr : readReg r s = packLanes (b.col c)) (j : Fin 4) :
    (hostRead off 4 s).1.data.extractLsb' (8 * j.val) 8 = b.byte ⟨4 * c.val + j.val, by omega⟩ := by
  rw [hostRead_response_idle h hoff hr, extractLsb'_packLanes, Block.row_col_eq_byte]

/-! ### The frame of an engine step -/

/-- `t` differs from `s` at most in what the engine may write: neither KEY, SRC, DST, LEN, GF_A, GF_B, IE, CMD_DROPPED, CMD,
nor BUF_BYTES and the environment (20_memory R84). -/
def EngineFrame (s t : State) : Prop :=
  t = { s with
    done := t.done, ksValid := t.ksValid, abortReq := t.abortReq, errCode := t.errCode, outlen := t.outlen,
    blkcnt := t.blkcnt, gfR := t.gfR, blk := t.blk, rk := t.rk, buf := t.buf, phase := t.phase, n := t.n,
    padLen := t.padLen, w := t.w }

/-- The first step of a command stays in the frame. -/
theorem engineFrame_of_exec {i : Instr} {s t : State} (h : exec i s = .next t) : EngineFrame s t := by
  rcases exec_next h with ⟨-, rfl⟩ | ⟨-, rfl⟩ | ⟨-, rfl⟩ | ⟨-, -, -, b, rfl⟩ | ⟨-, -, rfl⟩ | ⟨-, rfl⟩ | ⟨-, h⟩ | ⟨-, h⟩
  · rfl
  · rfl
  · rfl
  · rfl
  · rfl
  · rfl
  · rcases execEcbEnc_next h with ⟨-, rfl⟩ | ⟨-, -, rfl⟩ <;> rfl
  · rcases execEcbDec_next h with ⟨-, rfl⟩ | ⟨-, -, rfl⟩ | ⟨-, -, rfl⟩ | ⟨-, -, -, rfl⟩ <;> rfl

/-- Every engine step stays in the frame. -/
theorem engineFrame_of_engineStep {s t : State} (h : engineStep s = .next t) : EngineFrame s t := by
  rcases engineStep_next h with ⟨-, rfl⟩ | ⟨_, -, -, rfl⟩ | ⟨_, _, -, -, h⟩ | ⟨-, -, rfl⟩ | ⟨k, -, -, h⟩ | ⟨-, -, h⟩
    | ⟨k, -, -, h⟩
  · rfl
  · rfl
  · exact engineFrame_of_exec h
  · rfl
  · obtain ⟨-, -, -, ⟨-, rfl⟩ | ⟨-, rfl⟩⟩ := ecbEncBlock_next h <;> rfl
  · obtain ⟨-, -, w, -, ⟨-, rfl⟩ | ⟨-, -, rfl⟩ | ⟨-, -, rfl⟩⟩ := ecbDecValidate_next h <;> rfl
  · rcases ecbDecBlock_next h with ⟨-, -, -, rfl⟩ | ⟨-, -, -, -, rfl⟩ <;> rfl

/-! ### A running command moves on (45 R267) -/

/-- A command's first step ends it or enters a later phase. -/
theorem phase_of_exec {i : Instr} {s t : State} (h : exec i s = .next t) :
    t.phase = .idle ∨ t.phase = .ecbEnc 0 ∨ t.phase = .ecbDecValidate := by
  rcases exec_next h with ⟨-, rfl⟩ | ⟨-, rfl⟩ | ⟨-, rfl⟩ | ⟨-, -, -, b, rfl⟩ | ⟨-, -, rfl⟩ | ⟨-, rfl⟩ | ⟨-, h⟩ | ⟨-, h⟩
  · exact .inl rfl
  · exact .inl rfl
  · exact .inl rfl
  · exact .inl rfl
  · exact .inl rfl
  · exact .inl rfl
  · rcases execEcbEnc_next h with ⟨-, rfl⟩ | ⟨-, -, rfl⟩
    · exact .inl rfl
    · exact .inr (.inl rfl)
  · rcases execEcbDec_next h with ⟨-, rfl⟩ | ⟨-, -, rfl⟩ | ⟨-, -, rfl⟩ | ⟨-, -, -, rfl⟩
    · exact .inl rfl
    · exact .inl rfl
    · exact .inl rfl
    · exact .inr (.inr rfl)

/-- An engine step of a running command changes the phase. -/
theorem phase_ne_of_engineStep {s t : State} (hbusy : s.phase ≠ .idle) (h : engineStep s = .next t) :
    t.phase ≠ s.phase := by
  rcases engineStep_next h with ⟨hp, -⟩ | ⟨_, -, -, rfl⟩ | ⟨w, i, hp, -, h⟩ | ⟨-, -, rfl⟩ | ⟨k, hp, -, h⟩ | ⟨hp, -, h⟩
    | ⟨k, hp, -, h⟩
  · exact absurd hp hbusy
  · exact hbusy.symm
  · rcases phase_of_exec h with ht | ht | ht <;> simp [ht, hp]
  · exact hbusy.symm
  · obtain ⟨-, -, -, ⟨-, rfl⟩ | ⟨-, rfl⟩⟩ := ecbEncBlock_next h <;> simp [hp]
  · obtain ⟨-, -, w, -, ⟨-, rfl⟩ | ⟨-, -, rfl⟩ | ⟨-, -, rfl⟩⟩ := ecbDecValidate_next h <;> simp [hp]
  · rcases ecbDecBlock_next h with ⟨-, -, -, rfl⟩ | ⟨-, -, -, -, rfl⟩ <;> simp [hp]

/-! ### Under the invariant no engine access leaves BUF (20_memory R78) -/

theorem bufHolds_of_le {s : State} {a n : Nat} (h : a + n ≤ s.bufBytes) : s.bufHolds a n = true := by
  simp [State.bufHolds, h]

/-- No command's first step faults. -/
theorem exec_exists (i : Instr) (s : State) : ∃ t, exec i s = .next t := by
  cases i with
  | encBlock => exact ⟨_, cryptBlk_eq cipher s⟩
  | decBlock => exact ⟨_, cryptBlk_eq invCipher s⟩
  | addRoundKey r => exact ⟨_, execAddRoundKey_eq r s⟩
  | ecbEnc =>
    rw [exec, execEcbEnc]
    dsimp only
    split
    · exact ⟨_, rfl⟩
    · split <;> exact ⟨_, rfl⟩
  | ecbDec =>
    rw [exec, execEcbDec]
    split
    · exact ⟨_, rfl⟩
    split
    · exact ⟨_, rfl⟩
    · split <;> exact ⟨_, rfl⟩
  | _ => exact ⟨_, rfl⟩

/-- An engine step at a block boundary exists if the block step does. -/
theorem atBoundary_exists {f : State → Result} {s : State} (h : ∃ t, f s = .next t) : ∃ t, atBoundary f s = .next t := by
  unfold atBoundary
  split
  · exact ⟨_, rfl⟩
  · exact h

/-- 44 R222: the block of step k has its rule, is read inside SRC .. SRC + LEN, and is written inside DST .. DST + 16n. -/
theorem ecbEncBlock_exists {s : State} {k : Nat} (h : s.EncInv k) : ∃ t, ecbEncBlock k s = .next t := by
  obtain ⟨-, count, pad, index, src, dst, -, -, -⟩ := h
  have hrule : encStepHasRule s k = true := by
    simp only [encStepHasRule, Bool.and_eq_true, Bool.or_eq_true, decide_eq_true_eq, pad, padLength]
    omega
  have hread : s.bufHolds (s.src.toNat + 16 * k) (encInputBytes s k) = true := by
    apply bufHolds_of_le
    unfold encInputBytes
    split <;> omega
  have hwrite : s.bufHolds (s.dst.toNat + 16 * k) 16 = true := bufHolds_of_le (by omega)
  simp only [ecbEncBlock, hrule, hread, hwrite, Bool.not_true, Bool.false_eq_true, if_false]
  split <;> exact ⟨_, rfl⟩

/-- 44 R226: there is a final block, and it is read inside SRC .. SRC + LEN. -/
theorem ecbDecValidate_exists {s : State} {k : Nat} (h : s.DecInv k) : ∃ t, ecbDecValidate s = .next t := by
  obtain ⟨-, whole, nonempty, count, src, -, -, -⟩ := h
  have hn : s.n ≠ 0 := by omega
  have hread : s.bufHolds (s.src.toNat + 16 * (s.n - 1)) 16 = true := bufHolds_of_le (by omega)
  simp only [ecbDecValidate, hn, hread, Bool.not_true, Bool.false_eq_true, if_false]
  split
  · exact ⟨_, rfl⟩
  · split <;> exact ⟨_, rfl⟩

/-- 44 R227, R228: every block is read inside SRC .. SRC + LEN and written inside DST .. DST + LEN - padLen. -/
theorem ecbDecBlock_exists {s : State} {k : Nat} (h : s.DecInv k) (hw : s.DecWriteInv k) :
    ∃ t, ecbDecBlock k s = .next t := by
  obtain ⟨-, whole, nonempty, count, src, -, -, -⟩ := h
  obtain ⟨index, -, low, high, dst⟩ := hw
  unfold ecbDecBlock
  split
  · have hread : s.bufHolds (s.src.toNat + 16 * k) 16 = true := bufHolds_of_le (by omega)
    have hwrite : s.bufHolds (s.dst.toNat + 16 * k) 16 = true := bufHolds_of_le (by omega)
    simp only [ecbDecCopy, hread, hwrite, Bool.not_true, Bool.false_eq_true, if_false]
    exact ⟨_, rfl⟩
  · have hlast : k + 1 = s.n := by omega
    have hpad : ¬(s.padLen > 16 ∨ s.padLen > s.len.toNat) := by omega
    have hwrite : s.bufHolds (s.dst.toNat + 16 * (s.n - 1)) (16 - s.padLen) = true := bufHolds_of_le (by omega)
    simp only [hlast, if_true, ecbDecFinal, hpad, hwrite, Bool.not_true, Bool.false_eq_true, if_false]
    exact ⟨_, rfl⟩

/-- The first engine step of an accepted word never faults (45 R264, R265). -/
theorem firstStep_exists (w : Word) (s : State) : ∃ t, firstStep w s = .next t := by
  cases hd : decode w with
  | error e => exact ⟨finish .illegalCmd s, by simp only [firstStep, hd, raise]⟩
  | ok i =>
    simp only [firstStep, hd]
    exact exec_exists i s

/-- Under the invariant the engine has its step. -/
theorem engineStep_exists {s : State} (hs : s.Inv) : ∃ t, engineStep s = .next t := by
  have hphase := hs.phase
  cases hp : s.phase with
  | idle => exact ⟨s, by simp only [engineStep, hp]⟩
  | start w =>
    simp only [engineStep, hp]
    exact firstStep_exists w s
  | ecbEnc k =>
    simp only [State.PhaseInv, hp] at hphase
    simp only [engineStep, hp]
    exact atBoundary_exists (ecbEncBlock_exists hphase)
  | ecbDecValidate =>
    simp only [State.PhaseInv, hp] at hphase
    simp only [engineStep, hp]
    exact atBoundary_exists (ecbDecValidate_exists hphase)
  | ecbDec k =>
    simp only [State.PhaseInv, hp] at hphase
    simp only [engineStep, hp]
    obtain ⟨hdec, hwrite⟩ := hphase
    exact atBoundary_exists (ecbDecBlock_exists hdec hwrite)

/-- Under the invariant the block has its step: only an engine step can fault. -/
theorem step_exists {s : State} (hs : s.Inv) : ∃ t, step s = .next t := by
  unfold step
  split
  · exact engineStep_exists hs
  · rename_i e rest _
    cases e with
    | engine => exact engineStep_exists (hs.sameBlock rfl)
    | _ => exact ⟨_, rfl⟩

/-! ### The statements -/

/-- Settles O27, by the frame of an engine step. -/
theorem engineKeepsKeyRangeAndGfOperands : Obligations.EngineKeepsKeyRangeAndGfOperands := by
  intro s t h
  have ht : EngineFrame s t := engineFrame_of_engineStep h
  rw [ht]
  exact ⟨rfl, rfl, rfl, rfl, rfl, rfl, rfl, rfl, rfl, rfl, rfl, rfl, rfl⟩

/-- Settles O48: an access is a bus error exactly when it is not legal. -/
theorem illegalAccessesAreBusErrors : Obligations.IllegalAccessesAreBusErrors := by
  intro s off size v _
  refine ⟨fun hlegal => ?_, fun hillegal => ?_⟩
  · have ht : target s.bufBytes off size ≠ .busError := fun h => (target_eq_busError_iff ..).1 h hlegal
    exact ⟨hostRead_busError_of_ne ht, hostWrite_busError_of_ne ht v⟩
  · have ht : target s.bufBytes off size = .busError := (target_eq_busError_iff ..).2 hillegal
    rw [hostRead_of_busError ht, hostWrite_of_busError ht]
    exact ⟨rfl, rfl, rfl⟩

/-- Settles O49, by the lanes of a packed word and the column each register names. -/
theorem hostWordsAreLittleEndian : Obligations.HostWordsAreLittleEndian := by
  intro s h
  refine ⟨fun k j => ⟨?_, ?_⟩, fun r k j => ?_, fun a j h4 ha => ?_, fun a ha => ?_⟩
  · exact hostRead_column_idle h (r := .key k) rfl rfl j
  · exact hostRead_column_idle h (r := .blk k) rfl rfl j
  · refine hostRead_column_idle h (r := .rk ⟨4 * r.val + k.val, by omega⟩) ?_ ?_ j
    · simp only [Reg.offset]
      omega
    · rw [readReg, rkColumn_eq]
  · rw [hostRead_bufWord_idle h h4 ha, readBufWord, extractLsb'_packLanes, Col.row_ofRows]
  · rw [hostRead_bufByte_idle h ha]

/-- Settles O51, by what a host write can do while BUSY = 1 and by the two kinds of read. -/
theorem busyAccessesAreShieldedFromTheCommand : Obligations.BusyAccessesAreShieldedFromTheCommand := by
  refine ⟨fun s off size v hbusy hoff => ?_, fun s v hbusy => ?_, fun s r _ hr => ?_,
    fun s s' off size hs hs' hsize hdraws hoff =>
      hostRead_response_busy hs hs' hsize hdraws (unspecifiedWhileBusy_of_result_range hoff)⟩
  · have hb : s.busy ≠ false := by simpa [State.busy] using hbusy
    rcases hostWrite_state off size v s with h | ⟨h0, h4, -⟩ | ⟨h0, h4, -⟩ | ⟨h0, h4, -⟩ | ⟨-, -, hidle, -⟩ | ⟨hidle, -⟩
      | ⟨hidle, -⟩
    · exact h
    · exact absurd ⟨h4, .inl h0⟩ hoff
    · exact absurd ⟨h4, .inr (.inl h0)⟩ hoff
    · exact absurd ⟨h4, .inr (.inr h0)⟩ hoff
    · exact absurd hidle hb
    · exact absurd hidle hb
    · exact absurd hidle hb
  · exact hostWrite_state_at (r := .cmd) rfl (by simp [writeReg, writeCmd, State.busy, hbusy])
  · refine hostRead_offset r s ?_
    rcases hr with rfl | rfl | rfl | rfl | rfl | rfl | rfl | rfl | ⟨k, rfl⟩ <;> exact Bool.and_false _

/-- Settles O57: the step exists under the invariant, and an engine step of a running command changes the phase. -/
theorem noStepFaults : Obligations.NoStepFaults := by
  intro s hs
  obtain ⟨t, ht⟩ := engineStep_exists hs
  exact ⟨step_exists hs, fun hbusy => ⟨t, ht, phase_ne_of_engineStep hbusy ht⟩⟩

/-- Settles O52: a host read moves at most the count of free values, and that only while BUSY = 1. -/
theorem hostReadsHaveNoSideEffects : Obligations.HostReadsHaveNoSideEffects := by
  intro s off size
  rcases hostRead_state off size s with h | ⟨hbusy, -, h⟩
  · rw [h]
    exact ⟨rfl, fun _ => rfl⟩
  · rw [h]
    exact ⟨rfl, fun hidle => by simp [State.busy, hidle] at hbusy⟩

end Machine
end Sys2Proof
end

section
/-!
PROOF. The command word (O1 to O4): the decoder answers a command on exactly its encoding, when the command is well-formed;
from that, which words are legal, and the step an illegal word gets.
-/

namespace Sys2Proof.Machine

/-! ### The fields of a word (30_encoding R100) -/

@[simp] theorem opField_encode (i : Instr) : opField (encode i) = i.opcode := BitVec.extractLsb'_append_eq_right

@[simp] theorem ridxField_encode (i : Instr) : ridxField (encode i) = i.ridx :=
  (BitVec.extractLsb'_append_eq_of_le (by decide)).trans BitVec.extractLsb'_append_eq_right

@[simp] theorem rsvField_encode (i : Instr) : rsvField (encode i) = 0 :=
  (BitVec.extractLsb'_append_eq_of_le (by decide)).trans BitVec.extractLsb'_append_eq_left

/-- Two words are equal when their fields are. -/
theorem eq_iff_fields (w v : Word) :
    w = v ↔ rsvField w = rsvField v ∧ ridxField w = ridxField v ∧ opField w = opField v := by
  refine ⟨fun h => h ▸ ⟨rfl, rfl, rfl⟩, fun ⟨hrsv, hridx, hop⟩ => ?_⟩
  rw [← fields_append w, hrsv, hridx, hop, fields_append]

/-- 30_encoding R104: the mask of ADD_ROUND_KEY keeps RSV and OP and clears RIDX. -/
theorem and_addRoundKeyMask_eq_iff (w : Word) :
    w &&& 0xFFFFF0FF = 0x00000016 ↔ rsvField w = 0 ∧ opField w = 0x16 := by
  have hrsv : rsvField (w &&& 0xFFFFF0FF) = rsvField w := BitVec.extractLsb'_and.trans BitVec.and_allOnes
  have hridx : ridxField (w &&& 0xFFFFF0FF) = 0 := BitVec.extractLsb'_and.trans BitVec.and_zero
  have hop : opField (w &&& 0xFFFFF0FF) = opField w := BitVec.extractLsb'_and.trans BitVec.and_allOnes
  rw [eq_iff_fields, hrsv, hridx, hop]
  exact ⟨fun ⟨h, _, h'⟩ => ⟨h, h'⟩, fun ⟨h, h'⟩ => ⟨h, rfl, h'⟩⟩

/-! ### The opcode map (30_encoding R102) -/

theorem mem_plainOpcodes {i : Instr} (h : ∀ r, i ≠ .addRoundKey r) : (i.opcode, i) ∈ plainOpcodes := by
  cases i with
  | addRoundKey r => exact absurd rfl (h r)
  | _ => decide

theorem wf_of_plainOpcodes : ∀ p ∈ plainOpcodes, p.2.wf = true := by decide

/-- 30_encoding R104: a command without an operand field is its opcode, zero-extended. -/
theorem encode_eq_setWidth {i : Instr} (h : ∀ r, i ≠ .addRoundKey r) : encode i = i.opcode.setWidth 32 := by
  obtain ⟨-, hridx⟩ := opcode_of_plainOpcodes _ (mem_plainOpcodes h)
  rw [encode, hridx, BitVec.setWidth_eq_append (by decide)]
  rfl

/-! ### Decoding an encoding (30_encoding R103) -/

/-- 30_encoding R103: RIDX of ADD_ROUND_KEY is checked before execution. -/
theorem decode_encode_addRoundKey (r : BitVec 4) : decode (encode (.addRoundKey r))
    = if r.toNat ≤ 10 then .ok (.addRoundKey r) else .error .roundIndexTooLarge := by
  simp [decode, Instr.opcode, Instr.ridx, addRoundKeyOpcode]

theorem decode_encode {i : Instr} (h : i.wf = true) : decode (encode i) = .ok i := by
  cases i with
  | addRoundKey r => rw [decode_encode_addRoundKey, if_pos (of_decide_eq_true h)]
  | _ => rfl

theorem wf_of_decode {w : Word} {i : Instr} (h : decode w = .ok i) : i.wf = true := by
  obtain rfl := encode_of_decode h
  cases i with
  | addRoundKey r =>
    rw [decode_encode_addRoundKey] at h
    split at h
    · exact decide_eq_true ‹_›
    · cases h
  | _ => rfl

/-- A word decodes to a command exactly when it is the encoding of that command and the command is well-formed. -/
theorem decode_eq_ok_iff {w : Word} {i : Instr} : decode w = .ok i ↔ i.wf = true ∧ w = encode i := by
  refine ⟨fun h => ⟨wf_of_decode h, (encode_of_decode h).symm⟩, ?_⟩
  rintro ⟨hwf, rfl⟩
  exact decode_encode hwf

/-- A word decodes to a well-formed command exactly when it has the command's fields and a zero RSV. -/
theorem decode_eq_ok_iff_fields {w : Word} {i : Instr} :
    decode w = .ok i ↔ i.wf = true ∧ rsvField w = 0 ∧ ridxField w = i.ridx ∧ opField w = i.opcode := by
  rw [decode_eq_ok_iff, eq_iff_fields, rsvField_encode, ridxField_encode, opField_encode]

/-- 30_encoding R103: the legal round indices. -/
theorem exists_decode_addRoundKey_iff (w : Word) : (∃ r, decode w = .ok (.addRoundKey r)) ↔
    w ∈ ([0, 1, 2, 3, 4, 5, 6, 7, 8, 9, 10] : List (BitVec 4)).map fun r => encode (.addRoundKey r) := by
  have hwf : ∀ r : BitVec 4, (Instr.addRoundKey r).wf = true ↔ r ∈ [0, 1, 2, 3, 4, 5, 6, 7, 8, 9, 10] := by decide
  simp only [decode_eq_ok_iff, hwf, List.mem_map, eq_comm]

/-- 30_encoding R103: the words that decode, by their fields. -/
theorem exists_decode_iff (w : Word) : (∃ i, decode w = .ok i) ↔
    rsvField w = 0 ∧ ((opField w = 0x16 ∧ (ridxField w).toNat ≤ 10)
      ∨ (opField w ∈ plainOpcodes.map Prod.fst ∧ ridxField w = 0)) := by
  simp only [decode_eq_ok_iff_fields]
  constructor
  · rintro ⟨i, hwf, hrsv, hridx, hop⟩
    refine ⟨hrsv, ?_⟩
    rw [hridx, hop]
    by_cases hi : ∃ r, i = .addRoundKey r
    · obtain ⟨r, rfl⟩ := hi
      exact .inl ⟨rfl, of_decide_eq_true hwf⟩
    · have hmem : (i.opcode, i) ∈ plainOpcodes := mem_plainOpcodes (not_exists.1 hi)
      obtain ⟨-, hzero⟩ := opcode_of_plainOpcodes _ hmem
      exact .inr ⟨List.mem_map_of_mem hmem, hzero⟩
  · rintro ⟨hrsv, ⟨hop, hr⟩ | ⟨hop, hzero⟩⟩
    · exact ⟨.addRoundKey (ridxField w), decide_eq_true hr, hrsv, rfl, hop⟩
    · obtain ⟨⟨op, i⟩, hmem, heq⟩ := List.mem_map.1 hop
      obtain ⟨hopcode, hridx⟩ := opcode_of_plainOpcodes _ hmem
      exact ⟨i, wf_of_plainOpcodes _ hmem, hrsv, hzero.trans hridx.symm, heq.symm.trans hopcode.symm⟩

/-- 45 R265: the engine's step in START(w) for a word that is not legal. -/
theorem engineStep_of_illegal {s : State} {w : Word} (hp : s.phase = .start w) (h : ∀ i, decode w ≠ .ok i) :
    engineStep s = .next (finish .illegalCmd s) := by
  cases hd : decode w with
  | error e => simp only [engineStep, hp, firstStep, hd, raise]
  | ok i => exact absurd hd (h i)

/-! ### The statements -/

/-- Settles O2, by the fields of an encoding and the check of the round index. -/
theorem decodeUndoesEncode : Obligations.DecodeUndoesEncode := fun i h =>
  ⟨decode_encode h, opField_encode i, ridxField_encode i, rsvField_encode i⟩

/-- Settles O3: a decoded word is the encoding of its command, and the mask of ADD_ROUND_KEY leaves out RIDX only. -/
theorem decodeFollowsMatchAndMask : Obligations.DecodeFollowsMatchAndMask := by
  refine ⟨fun i w hi => ?_, fun r w => ?_, exists_decode_addRoundKey_iff⟩
  · have hwf : i.wf = true := wf_of_plainOpcodes _ (mem_plainOpcodes hi)
    rw [decode_eq_ok_iff, encode_eq_setWidth hi, and_iff_right hwf]
  · rw [decode_eq_ok_iff_fields, and_addRoundKeyMask_eq_iff]
    constructor
    · rintro ⟨hwf, hrsv, hridx, hop⟩
      exact ⟨⟨hrsv, hop⟩, hridx, of_decide_eq_true hwf⟩
    · rintro ⟨⟨hrsv, hop⟩, hridx, hr⟩
      exact ⟨decide_eq_true hr, hrsv, hridx, hop⟩

/-- Settles O4, by the fields of the words that decode and the engine's step on any other. -/
theorem illegalWordsCompleteWithIllegalCmd : Obligations.IllegalWordsCompleteWithIllegalCmd :=
  ⟨exists_decode_iff, fun s _ hp hcmd h => ⟨finish .illegalCmd s, engineStep_of_illegal hp h, rfl, hcmd⟩⟩

/-- Settles O1: each word is the encoding of its command. -/
theorem opcodeMapWordsDecode : Obligations.OpcodeMapWordsDecode := by
  simp only [Obligations.OpcodeMapWordsDecode, decode_eq_ok_iff]
  decide

end Sys2Proof.Machine
end

section
/-!
PROOF. GF(2^8) multiplication, the tables and GF_MUL (O9 to O12): gmul adds in each operand and commutes with
doubling of the first, so its laws follow by induction on a byte built from 1 by XOR and doubling; the inverse of a
nonzero byte is read off the table S through its algebraic form.
-/

namespace Sys2Proof.Machine

/-! ### Doubling (40 R130, R133) -/

/-- 40 R133: `xtime(a)`, the product of `a` and x reduced by 0x11B. -/
def xtime (a : Byte) : Byte := (a <<< 1) ^^^ (if a.getLsbD 7 then 0x1B else 0x00)

/-- A multiple selected by a bit is additive in the bit. -/
theorem select_xor_left (x y : Bool) (a : Byte) :
    (if (x ^^ y) then a else 0x00) = (if x then a else 0x00) ^^^ (if y then a else 0x00) := by
  cases x <;> cases y <;> simp

/-- A multiple selected by a bit is additive in the multiple. -/
theorem select_xor_right (x : Bool) (a b : Byte) :
    (if x then a ^^^ b else 0x00) = (if x then a else 0x00) ^^^ (if x then b else 0x00) := by
  cases x <;> simp

theorem xtime_xor (a b : Byte) : xtime (a ^^^ b) = xtime a ^^^ xtime b := by
  unfold xtime
  rw [BitVec.shiftLeft_xor_distrib, BitVec.getLsbD_xor, select_xor_left]
  ac_rfl

@[simp] theorem xtime_zero : xtime 0x00 = 0x00 := by decide

theorem xtime_select (x : Bool) (a : Byte) : xtime (if x then a else 0x00) = if x then xtime a else 0x00 := by
  cases x
  · exact xtime_zero
  · rfl

/-- 40 R130: an iteration doubles a, drops the low bit of b, and adds a to p when that bit is 1. -/
theorem gmulStep_eq (a b p : Byte) :
    gmulStep a b p = (xtime a, b >>> 1, p ^^^ if b.getLsbD 0 then a else 0x00) := by
  unfold gmulStep xtime
  cases a.getLsbD 7 <;> cases b.getLsbD 0 <;> simp

/-! ### The loop -/

theorem gmulLoop_succ (k : Nat) (a b p : Byte) :
    gmulLoop (k + 1) (a, b, p) = gmulLoop k (xtime a, b >>> 1, p ^^^ if b.getLsbD 0 then a else 0x00) := by
  rw [gmulLoop, gmulStep_eq]

/-- Once b is used up, the iterations keep p. -/
theorem gmulLoop_zero_right (k : Nat) (a p : Byte) : gmulLoop k (a, 0x00, p) = p := by
  induction k generalizing a with
  | zero => rfl
  | succ k ih => simpa [gmulLoop_succ] using ih (xtime a)

theorem gmulLoop_one_right (k : Nat) (a : Byte) : gmulLoop (k + 1) (a, 0x01, 0x00) = a :=
  calc gmulLoop (k + 1) (a, 0x01, 0x00)
    _ = gmulLoop k (xtime a, 0x00, 0x00 ^^^ a) := gmulLoop_succ k a 0x01 0x00
    _ = a := (gmulLoop_zero_right k _ _).trans BitVec.zero_xor

theorem gmulLoop_xor_right (k : Nat) (a b b' p p' : Byte) :
    gmulLoop k (a, b ^^^ b', p ^^^ p') = gmulLoop k (a, b, p) ^^^ gmulLoop k (a, b', p') := by
  induction k generalizing a b b' p p' with
  | zero => rfl
  | succ k ih =>
    simp only [gmulLoop_succ, ← ih, BitVec.ushiftRight_xor_distrib, BitVec.getLsbD_xor, select_xor_left]
    ac_rfl

theorem gmulLoop_xor_left (k : Nat) (a a' b p p' : Byte) :
    gmulLoop k (a ^^^ a', b, p ^^^ p') = gmulLoop k (a, b, p) ^^^ gmulLoop k (a', b, p') := by
  induction k generalizing a a' b p p' with
  | zero => rfl
  | succ k ih =>
    simp only [gmulLoop_succ, ← ih, xtime_xor, select_xor_right]
    ac_rfl

theorem gmulLoop_xtime (k : Nat) (a b p : Byte) : gmulLoop k (xtime a, b, xtime p) = xtime (gmulLoop k (a, b, p)) := by
  induction k generalizing a b p with
  | zero => rfl
  | succ k ih => rw [gmulLoop_succ, gmulLoop_succ, ← ih, xtime_xor, xtime_select]

/-! ### The laws of gmul (40 R132, R133) -/

theorem gmul_xor_right (a b c : Byte) : gmul a (b ^^^ c) = gmul a b ^^^ gmul a c :=
  gmulLoop_xor_right 8 a b c 0x00 0x00

theorem gmul_xor_left (a b c : Byte) : gmul (a ^^^ b) c = gmul a c ^^^ gmul b c :=
  gmulLoop_xor_left 8 a b c 0x00 0x00

theorem gmul_xtime_left (a b : Byte) : gmul (xtime a) b = xtime (gmul a b) :=
  gmulLoop_xtime 8 a b 0x00

@[simp] theorem gmul_zero (a : Byte) : gmul a 0x00 = 0x00 := gmulLoop_zero_right 8 a 0x00

@[simp] theorem gmul_one (a : Byte) : gmul a 0x01 = a := gmulLoop_one_right 7 a

theorem gmul_two (a : Byte) : gmul a 0x02 = xtime a :=
  calc gmul a 0x02
    _ = gmulLoop 7 (xtime a, 0x01, 0x00 ^^^ 0x00) := gmulLoop_succ 7 a 0x02 0x00
    _ = xtime a := gmulLoop_one_right 6 (xtime a)

/-- A byte is the XOR of its bits. -/
theorem eq_xor_bits : ∀ x : Byte, x = (List.finRange 8).foldr (fun i y => (x &&& BitVec.twoPow 8 i) ^^^ y) 0x00 := by
  decide +kernel

/-- What holds of the eight bits and is kept by XOR holds of every byte. -/
theorem xor_induction {P : Byte → Prop} (bit : ∀ i : Fin 8, P (BitVec.twoPow 8 i))
    (xor : ∀ x y, P x → P y → P (x ^^^ y)) (x : Byte) : P x := by
  have hzero : P 0x00 := by simpa using xor _ _ (bit 0) (bit 0)
  rw [eq_xor_bits x]
  induction List.finRange 8 with
  | nil => exact hzero
  | cons i is ih =>
    refine xor _ _ ?_ ih
    rw [BitVec.and_twoPow]
    split
    · exact bit i
    · exact hzero

/-- What holds of 1 and is kept by XOR and by doubling holds of every byte. -/
theorem xtime_induction {P : Byte → Prop} (one : P 0x01) (xor : ∀ x y, P x → P y → P (x ^^^ y))
    (double : ∀ x, P x → P (xtime x)) (x : Byte) : P x := by
  have hpow : ∀ i : Fin 8, BitVec.twoPow 8 i = xtime^[i.val] 0x01 := by decide
  have hiter : ∀ n : Nat, P (xtime^[n] 0x01) := fun n => Function.Iterate.rec P one double n
  exact xor_induction (fun i => hpow i ▸ hiter i) xor x

@[simp] theorem one_gmul (a : Byte) : gmul 0x01 a = a := by
  induction a using xor_induction with
  | bit i => revert i; decide
  | xor x y hx hy => rw [gmul_xor_right, hx, hy]

theorem gmul_assoc (a b c : Byte) : gmul (gmul a b) c = gmul a (gmul b c) := by
  induction a using xtime_induction with
  | one => simp only [one_gmul]
  | xor x y hx hy => simp only [gmul_xor_left, hx, hy]
  | double x hx => simp only [gmul_xtime_left, hx]

theorem gmul_xtime_right (a b : Byte) : gmul a (xtime b) = xtime (gmul a b) := by
  rw [← gmul_two, ← gmul_two, gmul_assoc]

theorem gmul_comm (a b : Byte) : gmul a b = gmul b a := by
  induction a using xtime_induction with
  | one => rw [one_gmul, gmul_one]
  | xor x y hx hy => rw [gmul_xor_left, gmul_xor_right, hx, hy]
  | double x hx => rw [gmul_xtime_left, gmul_xtime_right, hx]

@[simp] theorem zero_gmul (a : Byte) : gmul 0x00 a = 0x00 := by rw [gmul_comm, gmul_zero]

theorem gmul_inverse_unique {a b b' : Byte} (h : gmul a b = 0x01) (h' : gmul a b' = 0x01) : b' = b :=
  calc b'
    _ = gmul (gmul a b) b' := by rw [h, one_gmul]
    _ = gmul b (gmul a b') := by rw [gmul_comm a b, gmul_assoc]
    _ = b := by rw [h', gmul_one]

/-! ### Inverses and the tables (40 R133, R137, R138) -/

/-- 40 R138: the affine map of the algebraic form of S. -/
def sboxAffine (b : Byte) : Byte :=
  b ^^^ b.rotateLeft 1 ^^^ b.rotateLeft 2 ^^^ b.rotateLeft 3 ^^^ b.rotateLeft 4 ^^^ 0x63

/-- The inverse of `x` as S holds it: the affine map's inverse at `S[x]`. -/
def sboxInverse (x : Byte) : Byte :=
  (sbox x).rotateLeft 1 ^^^ (sbox x).rotateLeft 3 ^^^ (sbox x).rotateLeft 6 ^^^ 0x05

theorem sboxAffine_sboxInverse : ∀ x : Byte, sboxAffine (sboxInverse x) = sbox x := by decide +kernel

theorem gmul_sboxInverse : ∀ x : Byte, x ≠ 0x00 → gmul x (sboxInverse x) = 0x01 := by decide +kernel

/-- 40 R138: S at the inverse of a byte. -/
theorem sbox_eq_sboxAffine {x b : Byte} (hzero : x = 0x00 → b = 0x00) (hinv : x ≠ 0x00 → gmul x b = 0x01) :
    sbox x = sboxAffine b := by
  by_cases hx : x = 0x00
  · rw [hx, hzero hx]
    decide
  · rw [gmul_inverse_unique (gmul_sboxInverse x hx) (hinv hx), sboxAffine_sboxInverse]

/-- 40 R137: the tables are inverse to each other, and S has no fixed and no opposite fixed point. -/
theorem sbox_invSbox_laws :
    ∀ x : Byte, invSbox (sbox x) = x ∧ sbox (invSbox x) = x ∧ sbox x ≠ x ∧ sbox x ≠ x ^^^ 0xFF := by
  decide +kernel

/-- 40 R139: each round constant is the double of the one before. -/
theorem rcon_succ : ∀ r : Fin 9, rcon r.succ = gmul (rcon r.castSucc) 0x02 := by decide

/-! ### The statements -/

/-- Settles O10, by the loop at b = 0, at b = 1, and its additivity in b. -/
theorem gmulIsLinear : Obligations.GmulIsLinear := fun a b c =>
  ⟨gmul_zero a, gmul_one a, gmul_xor_right a b c⟩

/-- Settles O11: the laws by induction on a byte, the inverse from the table S. -/
theorem gmulCommutesAssociatesAndInverts : Obligations.GmulCommutesAssociatesAndInverts :=
  ⟨gmul_comm, gmul_assoc, gmul_two,
    fun a ha => ⟨sboxInverse a, gmul_sboxInverse a ha, fun _ => gmul_inverse_unique (gmul_sboxInverse a ha)⟩⟩

/-- Settles O9: GF_MUL completes with the product in GF_R, and OUTLEN and BLKCNT stay as acceptance cleared them. -/
theorem gfMulWritesTheProduct : Obligations.GfMulWritesTheProduct :=
  ⟨rfl, fun _ => rfl, fun _ => ⟨_, rfl, rfl, rfl⟩, fun a => ⟨gmul_zero a, zero_gmul a, gmul_one a, one_gmul a⟩,
    gmul_comm, by decide, by decide⟩

/-- Settles O12, by the checks of the tables and S at the inverse of a byte. -/
theorem tablesSatisfyTheirLaws : Obligations.TablesSatisfyTheirLaws :=
  ⟨sbox_invSbox_laws, fun _ _ => sbox_eq_sboxAffine, rfl, rcon_succ⟩

end Sys2Proof.Machine
end

section
/-!
PROOF. The round transforms and their commands (O13 to O22): what each transform does to a byte, an entry or a column, then
the commands as one shape, a function of BLK and a code. A column is multiplied by a circulant matrix, and two such
matrices multiply to a third, so MixColumns and its inverse cancel by their coefficients.
-/

namespace Sys2Proof.Machine

/-! ### Byte by byte (41 R151, R152, R161) -/

theorem subBytes_eq_ofBytes (b : Block) : subBytes b = .ofBytes fun i => sbox (b.byte i) := rfl

theorem invSubBytes_eq_ofBytes (b : Block) : invSubBytes b = .ofBytes fun i => invSbox (b.byte i) := rfl

@[simp] theorem byte_subBytes (b : Block) (i : Fin 16) : (subBytes b).byte i = sbox (b.byte i) := by
  rw [subBytes_eq_ofBytes, Block.byte_ofBytes]

@[simp] theorem byte_invSubBytes (b : Block) (i : Fin 16) : (invSubBytes b).byte i = invSbox (b.byte i) := by
  rw [invSubBytes_eq_ofBytes, Block.byte_ofBytes]

@[simp] theorem invSbox_sbox (x : Byte) : invSbox (sbox x) = x := (sbox_invSbox_laws x).1

@[simp] theorem sbox_invSbox (x : Byte) : sbox (invSbox x) = x := (sbox_invSbox_laws x).2.1

/-- 41 R153. -/
theorem leftInverse_invSubBytes : Function.LeftInverse invSubBytes subBytes := fun b => Block.ext_byte fun i => by
  rw [byte_invSubBytes, byte_subBytes, invSbox_sbox]

/-- 41 R153. -/
theorem rightInverse_invSubBytes : Function.RightInverse invSubBytes subBytes := fun b => Block.ext_byte fun i => by
  rw [byte_subBytes, byte_invSubBytes, sbox_invSbox]

theorem addRoundKey_eq_ofBytes (b k : Block) : addRoundKey b k = .ofBytes fun i => b.byte i ^^^ k.byte i := rfl

/-- 41 R161: a zero round key leaves the block. -/
theorem addRoundKey_zero (b : Block) : addRoundKey b .zero = b := by
  have hzero : ∀ i, Block.zero.byte i = 0#8 := by decide
  exact Block.ext_byte fun i => by rw [addRoundKey, Block.byte_xor, hzero, BitVec.xor_zero]

/-- 41 R162: AddRoundKey is its own inverse. -/
theorem addRoundKey_addRoundKey (b k : Block) : addRoundKey (addRoundKey b k) k = b :=
  Block.ext_byte fun i => by
    rw [addRoundKey, addRoundKey, Block.byte_xor, Block.byte_xor, BitVec.xor_assoc, BitVec.xor_self, BitVec.xor_zero]

/-! ### Row by row (41 R154, R155) -/

@[simp] theorem entry_subBytes (b : Block) (r c : Fin 4) : (subBytes b).entry r c = sbox (b.entry r c) :=
  Block.entry_ofMatrix _ r c

@[simp] theorem entry_invSubBytes (b : Block) (r c : Fin 4) : (invSubBytes b).entry r c = invSbox (b.entry r c) :=
  Block.entry_ofMatrix _ r c

@[simp] theorem entry_shiftRows (b : Block) (r c : Fin 4) : (shiftRows b).entry r c = b.entry r (c + r) :=
  Block.entry_ofMatrix _ r c

@[simp] theorem entry_invShiftRows (b : Block) (r c : Fin 4) : (invShiftRows b).entry r c = b.entry r (c - r) :=
  Block.entry_ofMatrix _ r c

/-- 41 R154: the permutation P: byte i of the result is byte P[i] of the block. -/
def shiftRowsIndex : Fin 16 → Fin 16 := ![0, 5, 10, 15, 4, 9, 14, 3, 8, 13, 2, 7, 12, 1, 6, 11]

/-- 41 R155: the permutation Q. -/
def invShiftRowsIndex : Fin 16 → Fin 16 := ![0, 13, 10, 7, 4, 1, 14, 11, 8, 5, 2, 15, 12, 9, 6, 3]

theorem shiftRows_eq_ofBytes (b : Block) : shiftRows b = .ofBytes fun i => b.byte (shiftRowsIndex i) := rfl

theorem invShiftRows_eq_ofBytes (b : Block) : invShiftRows b = .ofBytes fun i => b.byte (invShiftRowsIndex i) := rfl

/-- Both permutations fix the bytes of row 0. -/
theorem shiftRowsIndex_row_zero :
    ∀ i ∈ ([0, 4, 8, 12] : List (Fin 16)), shiftRowsIndex i = i ∧ invShiftRowsIndex i = i := by
  decide

theorem byte_shiftRows_row_zero (b : Block) {i : Fin 16} (hi : i ∈ ([0, 4, 8, 12] : List (Fin 16))) :
    (shiftRows b).byte i = b.byte i := by
  rw [shiftRows_eq_ofBytes, Block.byte_ofBytes, (shiftRowsIndex_row_zero i hi).1]

theorem byte_invShiftRows_row_zero (b : Block) {i : Fin 16} (hi : i ∈ ([0, 4, 8, 12] : List (Fin 16))) :
    (invShiftRows b).byte i = b.byte i := by
  rw [invShiftRows_eq_ofBytes, Block.byte_ofBytes, (shiftRowsIndex_row_zero i hi).2]

@[simp] theorem entry_ofCols_const (x : Col) (r c : Fin 4) : (Block.ofCols fun _ => x).entry r c = x.row r := by
  rw [Block.entry, Block.col_ofCols]

/-- 41 R154: a block of equal columns stays. -/
theorem shiftRows_ofCols_const (x : Col) : shiftRows (.ofCols fun _ => x) = .ofCols fun _ => x :=
  Block.ext_entry fun r c => by rw [entry_shiftRows, entry_ofCols_const, entry_ofCols_const]

/-- 41 R155: a block of equal columns stays. -/
theorem invShiftRows_ofCols_const (x : Col) : invShiftRows (.ofCols fun _ => x) = .ofCols fun _ => x :=
  Block.ext_entry fun r c => by rw [entry_invShiftRows, entry_ofCols_const, entry_ofCols_const]

/-- 41 R155: a rotation of four by two is the same in both directions. -/
theorem entry_two_invShiftRows (b : Block) (c : Fin 4) : (invShiftRows b).entry 2 c = (shiftRows b).entry 2 c := by
  have htwo : ∀ c : Fin 4, c - 2 = c + 2 := by decide
  rw [entry_invShiftRows, entry_shiftRows, htwo]

/-- 41 R156. -/
theorem invShiftRows_shiftRows (b : Block) : invShiftRows (shiftRows b) = b :=
  Block.ext_entry fun r c => by rw [entry_invShiftRows, entry_shiftRows, sub_add_cancel]

/-- 41 R156. -/
theorem shiftRows_invShiftRows (b : Block) : shiftRows (invShiftRows b) = b :=
  Block.ext_entry fun r c => by rw [entry_shiftRows, entry_invShiftRows, add_sub_cancel_right]

/-- 41 R157: moving a byte and substituting it commute. -/
theorem shiftRows_subBytes (b : Block) : shiftRows (subBytes b) = subBytes (shiftRows b) :=
  Block.ext_entry fun r c => by rw [entry_shiftRows, entry_subBytes, entry_subBytes, entry_shiftRows]

/-- 41 R157. -/
theorem invShiftRows_invSubBytes (b : Block) : invShiftRows (invSubBytes b) = invSubBytes (invShiftRows b) :=
  Block.ext_entry fun r c => by rw [entry_invShiftRows, entry_invSubBytes, entry_invSubBytes, entry_invShiftRows]

/-! ### Circulant matrices (41 R158, R159) -/

section Circulant

variable {k0 k1 k2 k3 : Byte}

theorem circulant_zero : circulant k0 k1 k2 k3 .zero = .zero := by
  simp only [circulant, Col.zero, gmul_zero]
  rfl

theorem circulant_xor (x y : Col) :
    circulant k0 k1 k2 k3 (x.xor y) = (circulant k0 k1 k2 k3 x).xor (circulant k0 k1 k2 k3 y) := by
  simp only [circulant, Col.xor, gmul_xor_right]
  congr 1 <;> ac_rfl

/-- Coefficients that sum to 1 keep a column of equal bytes. -/
theorem circulant_const (h : k0 ^^^ k1 ^^^ k2 ^^^ k3 = 0x01) (x : Byte) :
    circulant k0 k1 k2 k3 ⟨x, x, x, x⟩ = ⟨x, x, x, x⟩ := by
  have hsum : gmul k0 x ^^^ gmul k1 x ^^^ gmul k2 x ^^^ gmul k3 x = x := by
    rw [← gmul_xor_left, ← gmul_xor_left, ← gmul_xor_left, h, one_gmul]
  dsimp only [circulant]
  congr 1 <;> exact Eq.trans (by ac_rfl) hsum

/-- Two circulant matrices multiply to the one whose coefficients are the cyclic convolution of theirs. -/
theorem circulant_circulant (j0 j1 j2 j3 : Byte) (x : Col) :
    circulant k0 k1 k2 k3 (circulant j0 j1 j2 j3 x)
      = circulant
          (gmul k0 j0 ^^^ gmul k1 j3 ^^^ gmul k2 j2 ^^^ gmul k3 j1)
          (gmul k0 j1 ^^^ gmul k1 j0 ^^^ gmul k2 j3 ^^^ gmul k3 j2)
          (gmul k0 j2 ^^^ gmul k1 j1 ^^^ gmul k2 j0 ^^^ gmul k3 j3)
          (gmul k0 j3 ^^^ gmul k1 j2 ^^^ gmul k2 j1 ^^^ gmul k3 j0) x := by
  simp only [circulant, gmul_xor_left, gmul_xor_right, gmul_assoc]
  congr 1 <;> ac_rfl

end Circulant

/-- The identity matrix. -/
theorem circulant_one (x : Col) : circulant 1 0 0 0 x = x := by
  simp only [circulant, one_gmul, zero_gmul]
  simp

/-! ### Column by column (41 R158 to R160) -/

/-- 41 R158: MixColumns multiplies by the circulant matrix of (2, 3, 1, 1). -/
theorem mixColumn_eq_circulant (x : Col) : mixColumn x = circulant 2 3 1 1 x := by
  simp only [mixColumn, circulant, one_gmul]

theorem invMixColumn_mixColumn (x : Col) : invMixColumn (mixColumn x) = x := by
  rw [mixColumn_eq_circulant, invMixColumn, circulant_circulant]
  exact circulant_one x

theorem mixColumn_invMixColumn (x : Col) : mixColumn (invMixColumn x) = x := by
  rw [mixColumn_eq_circulant, invMixColumn, circulant_circulant]
  exact circulant_one x

@[simp] theorem col_mixColumns (b : Block) (c : Fin 4) : (mixColumns b).col c = mixColumn (b.col c) :=
  Block.col_ofCols _ c

@[simp] theorem col_invMixColumns (b : Block) (c : Fin 4) : (invMixColumns b).col c = invMixColumn (b.col c) :=
  Block.col_ofCols _ c

theorem mixColumns_xor (b b' : Block) : mixColumns (b.xor b') = (mixColumns b).xor (mixColumns b') :=
  Block.ext_col fun c => by simp only [col_mixColumns, Block.col_xor, mixColumn_eq_circulant, circulant_xor]

theorem invMixColumns_xor (b b' : Block) : invMixColumns (b.xor b') = (invMixColumns b).xor (invMixColumns b') :=
  Block.ext_col fun c => by simp only [col_invMixColumns, Block.col_xor, invMixColumn, circulant_xor]

/-! ### The commands (41 R150, R161) -/

/-- 41 R150: each command without a round index is one function of BLK, and completes. -/
theorem exec_transform : ∀ i ∈ [Instr.subBytes, .invSubBytes, .shiftRows, .invShiftRows, .mixColumns, .invMixColumns],
    ∃ f : Block → Block, ∀ s, exec i s = .next (finish .none { s with blk := f s.blk }) := by
  simp only [List.forall_mem_cons, List.not_mem_nil, false_imp_iff, implies_true, and_true]
  exact ⟨⟨subBytes, transformBlk_eq _⟩, ⟨invSubBytes, transformBlk_eq _⟩, ⟨shiftRows, transformBlk_eq _⟩,
    ⟨invShiftRows, transformBlk_eq _⟩, ⟨mixColumns, transformBlk_eq _⟩, ⟨invMixColumns, transformBlk_eq _⟩⟩

theorem select_ofNat (k : RoundKeys) (r : Fin 11) : k.select (BitVec.ofNat 4 r.val) = some (k.get r) := by
  fin_cases r <;> rfl

/-- 41 R161: ADD_ROUND_KEY with a legal round index: the result with a valid schedule, NO_SCHEDULE without one. -/
theorem exec_addRoundKey_of_select {r : BitVec 4} {s : State} {k : Block} (h : s.rk.select r = some k) :
    exec (.addRoundKey r) s = .next
      (if s.ksValid then finish .none { s with blk := addRoundKey s.blk k } else finish .noSchedule s) := by
  rw [exec, execAddRoundKey_eq, h]

/-- 41 R150, R161: what RK and KS_VALID hold fixes the function of BLK and the code of ADD_ROUND_KEY. -/
theorem exec_addRoundKey_of_schedule (r : BitVec 4) (rk : RoundKeys) (v : Bool) :
    ∃ (f : Block → Block) (e : ErrKind), ∀ s : State, s.rk = rk → s.ksValid = v →
      exec (.addRoundKey r) s = .next (finish e { s with blk := f s.blk }) := by
  cases hk : rk.select r with
  | none =>
    refine ⟨id, .illegalCmd, ?_⟩
    rintro s rfl -
    rw [exec, execAddRoundKey_eq, hk]
    rfl
  | some k =>
    cases v with
    | false =>
      refine ⟨id, .noSchedule, ?_⟩
      rintro s rfl hv
      rw [exec_addRoundKey_of_select hk, if_neg (Bool.eq_false_iff.1 hv)]
      rfl
    | true =>
      refine ⟨(addRoundKey · k), .none, ?_⟩
      rintro s rfl hv
      rw [exec_addRoundKey_of_select hk, if_pos hv]

/-- 41 R150: two states in which a command is the same function of BLK and that agree on BLK get the same BLK, and only BLK
and the fields of completion change. -/
theorem blk_eq_of_transform {i : Instr} {f : Block → Block} {e : ErrKind} {s s' : State}
    (h : exec i s = .next (finish e { s with blk := f s.blk }))
    (h' : exec i s' = .next (finish e { s' with blk := f s'.blk })) (hblk : s.blk = s'.blk) :
    ∃ t t', exec i s = .next t ∧ exec i s' = .next t' ∧ t.blk = t'.blk
      ∧ t.phase = .idle ∧ t.done = true ∧ t = { s with
        blk := t.blk, errCode := t.errCode, abortReq := t.abortReq, phase := t.phase, done := t.done } :=
  ⟨_, _, h, h', congrArg f hblk, rfl, rfl, rfl⟩

/-! ### The statements -/

/-- Settles O13, byte by byte; the substitution is a bijection because that of the inverse table undoes it. -/
theorem subBytesSubstitutesEveryByte : Obligations.SubBytesSubstitutesEveryByte :=
  ⟨rfl, fun _ => rfl, byte_subBytes, by decide,
    ⟨leftInverse_invSubBytes.injective, rightInverse_invSubBytes.surjective⟩, by decide⟩

/-- Settles O17: the matrix form of a column, and the rules of a circulant matrix with coefficients that sum to 1. -/
theorem mixColumnsMultipliesEveryColumn : Obligations.MixColumnsMultipliesEveryColumn := by
  refine ⟨rfl, fun s => ⟨mixColumns s.blk, rfl, rfl, fun c => ?_⟩, fun b c h => ?_, fun b c x h => ?_, mixColumns_xor,
    by decide, by decide⟩
  · simp only [Block.entry, col_mixColumns]
    exact ⟨rfl, rfl, rfl, rfl⟩
  · rw [col_mixColumns, h, mixColumn_eq_circulant, circulant_zero]
  · rw [col_mixColumns, h, mixColumn_eq_circulant, circulant_const (by decide)]

/-- Settles O18: the matrix form of a column, and the rules of a circulant matrix with coefficients that sum to 1. -/
theorem invMixColumnsMultipliesEveryColumn : Obligations.InvMixColumnsMultipliesEveryColumn := by
  refine ⟨rfl, fun s => ⟨invMixColumns s.blk, rfl, rfl, fun c => ?_⟩, fun b c h => ?_, fun b c x h => ?_,
    invMixColumns_xor, by decide, by decide⟩
  · simp only [Block.entry, col_invMixColumns]
    exact ⟨rfl, rfl, rfl, rfl⟩
  · rw [col_invMixColumns, h, invMixColumn, circulant_zero]
  · rw [col_invMixColumns, h, invMixColumn, circulant_const (by decide)]

/-- Settles O19: the step of ADD_ROUND_KEY for an index up to 10, and the decoder's refusal of any other. -/
theorem addRoundKeyXorsTheSelectedKey : Obligations.AddRoundKeyXorsTheSelectedKey := by
  refine ⟨fun r => ⟨by revert r; decide, ridxField_encode (.addRoundKey r)⟩, fun s r h => ?_, fun s r h => ?_,
    fun s r hr hp => ?_, addRoundKey_zero, addRoundKey_addRoundKey, by decide⟩
  · rw [exec_addRoundKey_of_select (select_ofNat s.rk r), if_pos h, addRoundKey_eq_ofBytes]
    rfl
  · rw [exec_addRoundKey_of_select (select_ofNat s.rk r), if_neg (Bool.eq_false_iff.1 h)]
    rfl
  · have hillegal : ∀ i, decode (encode (.addRoundKey r)) ≠ .ok i := by
      rw [decode_encode_addRoundKey, if_neg (by omega)]
      exact nofun
    exact engineStep_of_illegal hp hillegal

/-- Settles O20, by the bytes of the substitutions and the entries of the row shifts. -/
theorem roundTransformsInvertAndCommute : Obligations.RoundTransformsInvertAndCommute := fun b k =>
  ⟨leftInverse_invSubBytes b, rightInverse_invSubBytes b, invShiftRows_shiftRows b, shiftRows_invShiftRows b,
    shiftRows_subBytes b, invShiftRows_invSubBytes b, addRoundKey_addRoundKey b k⟩

/-- Settles O21: the product of the two circulant matrices is the identity in each column. -/
theorem mixColumnsInverts : Obligations.MixColumnsInverts := fun b =>
  ⟨Block.ext_col fun c => by rw [col_invMixColumns, col_mixColumns, invMixColumn_mixColumn],
    Block.ext_col fun c => by rw [col_mixColumns, col_invMixColumns, mixColumn_invMixColumn]⟩

/-- Settles O22: each command is one function of BLK, which for ADD_ROUND_KEY depends on RK and KS_VALID. -/
theorem roundCommandsReadOnlyTheirOperands : Obligations.RoundCommandsReadOnlyTheirOperands := by
  refine ⟨fun i hi s s' hblk => ?_, fun r s s' hblk hrk hv => ?_⟩
  · obtain ⟨f, hf⟩ := exec_transform i hi
    exact blk_eq_of_transform (hf s) (hf s') hblk
  · obtain ⟨f, e, hf⟩ := exec_addRoundKey_of_schedule r s.rk s.ksValid
    exact blk_eq_of_transform (hf s rfl rfl) (hf s' hrk.symm hv.symm) hblk

/-- Settles O14, byte by byte. -/
theorem invSubBytesSubstitutesEveryByte : Obligations.InvSubBytesSubstitutesEveryByte :=
  ⟨rfl, fun _ => rfl, byte_invSubBytes, by decide, by decide, by decide⟩

/-- Settles O15, entry by entry and by the permutation P. -/
theorem shiftRowsRotatesRowsLeft : Obligations.ShiftRowsRotatesRowsLeft :=
  ⟨rfl, fun _ => rfl, entry_shiftRows, fun b c => by rw [entry_shiftRows, add_zero],
    shiftRows_ofCols_const, fun b _ => byte_shiftRows_row_zero b, by decide⟩

/-- Settles O16, entry by entry and by the permutation Q. -/
theorem invShiftRowsRotatesRowsRight : Obligations.InvShiftRowsRotatesRowsRight :=
  ⟨rfl, fun _ => rfl, entry_invShiftRows, fun b c => by rw [entry_invShiftRows, sub_zero], invShiftRows_ofCols_const,
    fun b _ => byte_invShiftRows_row_zero b, entry_two_invShiftRows, by decide⟩

end Sys2Proof.Machine
end

section
/-!
PROOF. The key schedule and EXPAND_KEY (O23 to O26): each round key is `nextRoundKey` of the one before it, and its columns
give the byte and the word recurrence; then every step either keeps RK and KS_VALID or is one of the three that write them
whole.
-/

namespace Sys2Proof

theorem Col.xor_comm (a b : Col) : a.xor b = b.xor a :=
  Col.ext_row fun r => by rw [Col.row_xor, Col.row_xor, BitVec.xor_comm]

namespace Machine

/-! ### Columns of a round key (42 R180) -/

@[simp] theorem row_rotUp (t : Col) (j : Fin 4) : (rotUp t).row j = t.row (j + 1) := by
  fin_cases j <;> rfl

@[simp] theorem row_subCol (t : Col) (j : Fin 4) : (subCol t).row j = sbox (t.row j) := by
  fin_cases j <;> rfl

theorem row_firstByte (x : Byte) (j : Fin 4) : (⟨x, 0, 0, 0⟩ : Col).row j = if j = 0 then x else 0 := by
  fin_cases j <;> rfl

theorem row_scheduleWord (t : Col) (rc : Byte) (j : Fin 4) :
    (scheduleWord t rc).row j = sbox (t.row (j + 1)) ^^^ if j = 0 then rc else 0 := by
  rw [scheduleWord, Col.row_xor, row_subCol, row_rotUp, row_firstByte]

theorem col_zero_nextRoundKey (prev : Block) (rc : Byte) :
    (nextRoundKey prev rc).col 0 = (prev.col 0).xor (scheduleWord (prev.col 3) rc) := rfl

theorem col_nextRoundKey_of_ne_zero (prev : Block) (rc : Byte) {c : Fin 4} (h : c ≠ 0) :
    (nextRoundKey prev rc).col c = ((nextRoundKey prev rc).col (c - 1)).xor (prev.col c) := by
  fin_cases c
  · exact absurd rfl h
  · rfl
  · rfl
  · rfl

/-! ### The elements of the schedule (42 R182) -/

theorem get_zero_keyExpand (key : Block) : (keyExpand key).get 0 = key := rfl

/-- 42 R182: RK[r] is made from RK[r-1] and Rcon[r]. -/
theorem get_succ_keyExpand (key : Block) (r : Fin 10) :
    (keyExpand key).get r.succ = nextRoundKey ((keyExpand key).get r.castSucc) (rcon r) := by
  fin_cases r <;> rfl

/-- Two schedules that agree on one element agree on every later one. -/
theorem get_keyExpand_eq_of_le {key key' : Block} {r : Fin 11} (h : (keyExpand key).get r = (keyExpand key').get r)
    (r' : Fin 11) (hle : r ≤ r') : (keyExpand key).get r' = (keyExpand key').get r' := by
  induction r' using Fin.induction with
  | zero => rwa [Fin.le_zero_iff.1 hle] at h
  | succ i ih =>
    rcases hle.eq_or_lt with rfl | hlt
    · exact h
    · rw [get_succ_keyExpand, get_succ_keyExpand, ih (Fin.le_castSucc_iff.2 hlt)]

/-- 10_state R40: the column of the round-key file with number 4r + c. -/
theorem rkColumn_of_val (rk : RoundKeys) {i : Fin 44} {r : Fin 11} {c : Fin 4} (h : i.val = 4 * r.val + c.val) :
    rkColumn rk i = (rk.get r).col c := by
  rw [← rkColumn_eq]
  exact congrArg (rkColumn rk) (Fin.ext h)

/-- 42 R184: the word recurrence at the first column of a round key. -/
theorem rkColumn_keyExpand_of_mod_eq_zero (key : Block) {i : Fin 40} (h : i.val % 4 = 0) :
    rkColumn (keyExpand key) ⟨i.val + 4, by omega⟩ = (rkColumn (keyExpand key) ⟨i.val, by omega⟩).xor
      (scheduleWord (rkColumn (keyExpand key) ⟨i.val + 3, by omega⟩) (rcon ⟨i.val / 4, by omega⟩)) := by
  have hnew : i.val + 4 = 4 * (i.val / 4 + 1) + 0 := by omega
  have hold : i.val = 4 * (i.val / 4) + 0 := by omega
  have hlast : i.val + 3 = 4 * (i.val / 4) + 3 := by omega
  let r : Fin 10 := ⟨i.val / 4, by omega⟩
  rw [rkColumn_of_val _ (r := r.succ) (c := 0) hnew, rkColumn_of_val _ (r := r.castSucc) (c := 0) hold,
    rkColumn_of_val _ (r := r.castSucc) (c := 3) hlast, get_succ_keyExpand, col_zero_nextRoundKey]

/-- 42 R184: the word recurrence at the other columns of a round key. -/
theorem rkColumn_keyExpand_of_mod_ne_zero (key : Block) {i : Fin 40} (h : i.val % 4 ≠ 0) :
    rkColumn (keyExpand key) ⟨i.val + 4, by omega⟩
      = (rkColumn (keyExpand key) ⟨i.val, by omega⟩).xor (rkColumn (keyExpand key) ⟨i.val + 3, by omega⟩) := by
  let r : Fin 10 := ⟨i.val / 4, by omega⟩
  let c : Fin 4 := ⟨i.val % 4, by omega⟩
  have hc : c ≠ 0 := fun hc => h (congrArg Fin.val hc)
  have hnew : i.val + 4 = 4 * (i.val / 4 + 1) + i.val % 4 := by omega
  have hold : i.val = 4 * (i.val / 4) + i.val % 4 := by omega
  have hlast : i.val + 3 = 4 * (i.val / 4 + 1) + (c - 1).val := by
    rw [Fin.val_sub_one_of_ne_zero hc]
    change i.val + 3 = 4 * (i.val / 4 + 1) + (i.val % 4 - 1)
    omega
  rw [rkColumn_of_val _ (r := r.succ) (c := c) hnew, rkColumn_of_val _ (r := r.castSucc) (c := c) hold,
    rkColumn_of_val _ (r := r.succ) (c := c - 1) hlast, get_succ_keyExpand, col_nextRoundKey_of_ne_zero _ _ hc,
    Col.xor_comm]

/-! ### EXPAND_KEY (42 R181) -/

theorem exec_expandKey (s : State) : exec .expandKey s = .next (finish .none (loadSchedule s)) := rfl

/-! ### What each step does to the schedule (42 R183) -/

/-- RK and KS_VALID are the same in both states. -/
def SameSchedule (s t : State) : Prop := t.rk = s.rk ∧ t.ksValid = s.ksValid

/-- `t` holds the whole expansion of KEY in `s`, and its KS_VALID is set. -/
def WholeSchedule (s t : State) : Prop := t.rk = keyExpand s.key ∧ t.ksValid = true

/-- The running command is one of the three that expand KEY, before its first step. -/
def StartsExpansion (s : State) : Prop :=
  ∃ w i, s.phase = .start w ∧ decode w = .ok i ∧ (i = .expandKey ∨ i = .ecbEnc ∨ i = .ecbDec)

/-- The first step of a command keeps the schedule or is one of the three that write it whole. -/
theorem schedule_of_exec {i : Instr} {s t : State} (h : exec i s = .next t) :
    SameSchedule s t ∨ (WholeSchedule s t ∧ (i = .expandKey ∨ i = .ecbEnc ∨ i = .ecbDec)) := by
  rcases exec_next h with ⟨-, rfl⟩ | ⟨hi, rfl⟩ | ⟨-, rfl⟩ | ⟨-, -, -, b, rfl⟩ | ⟨-, -, rfl⟩ | ⟨-, rfl⟩ | ⟨hi, h⟩ | ⟨hi, h⟩
  · exact .inl ⟨rfl, rfl⟩
  · exact .inr ⟨⟨rfl, rfl⟩, .inl hi⟩
  · exact .inl ⟨rfl, rfl⟩
  · exact .inl ⟨rfl, rfl⟩
  · exact .inl ⟨rfl, rfl⟩
  · exact .inl ⟨rfl, rfl⟩
  · rcases execEcbEnc_next h with ⟨-, rfl⟩ | ⟨-, -, rfl⟩
    · exact .inl ⟨rfl, rfl⟩
    · exact .inr ⟨⟨rfl, rfl⟩, .inr (.inl hi)⟩
  · rcases execEcbDec_next h with ⟨-, rfl⟩ | ⟨-, -, rfl⟩ | ⟨-, -, rfl⟩ | ⟨-, -, -, rfl⟩
    · exact .inl ⟨rfl, rfl⟩
    · exact .inl ⟨rfl, rfl⟩
    · exact .inl ⟨rfl, rfl⟩
    · exact .inr ⟨⟨rfl, rfl⟩, .inr (.inr hi)⟩

/-- An engine step keeps the schedule or is the first step of one of the three commands that write it whole. -/
theorem schedule_of_engineStep {s t : State} (h : engineStep s = .next t) :
    SameSchedule s t ∨ (WholeSchedule s t ∧ StartsExpansion s) := by
  rcases engineStep_next h with ⟨-, rfl⟩ | ⟨_, -, -, rfl⟩ | ⟨w, i, hp, hd, h⟩ | ⟨-, -, rfl⟩ | ⟨k, -, -, h⟩ | ⟨-, -, h⟩
    | ⟨k, -, -, h⟩
  · exact .inl ⟨rfl, rfl⟩
  · exact .inl ⟨rfl, rfl⟩
  · exact (schedule_of_exec h).imp_right fun ⟨hwhole, hi⟩ => ⟨hwhole, w, i, hp, hd, hi⟩
  · exact .inl ⟨rfl, rfl⟩
  · obtain ⟨-, -, -, ⟨-, rfl⟩ | ⟨-, rfl⟩⟩ := ecbEncBlock_next h <;> exact .inl ⟨rfl, rfl⟩
  · obtain ⟨-, -, w, -, ⟨-, rfl⟩ | ⟨-, -, rfl⟩ | ⟨-, -, rfl⟩⟩ := ecbDecValidate_next h <;> exact .inl ⟨rfl, rfl⟩
  · rcases ecbDecBlock_next h with ⟨-, -, -, rfl⟩ | ⟨-, -, -, -, rfl⟩ <;> exact .inl ⟨rfl, rfl⟩

/-- 10_state R41: no host write changes the schedule. -/
theorem sameSchedule_hostWrite (off size : Nat) (v : Word) (s : State) :
    SameSchedule s (hostWrite off size v s).2 := by
  rcases hostWrite_state off size v s with h | ⟨-, -, h⟩ | ⟨-, -, h⟩ | ⟨-, -, -, h⟩ | ⟨-, -, -, h⟩
    | ⟨-, src, dst, len, gfA, gfB, key, blk, h⟩ | ⟨-, a, xs, -, h⟩ <;> rw [h]
  · exact ⟨rfl, rfl⟩
  · exact ⟨rfl, rfl⟩
  · rw [writeStatus_eq]
    exact ⟨rfl, rfl⟩
  · exact ⟨rfl, rfl⟩
  · exact ⟨rfl, rfl⟩
  · exact ⟨rfl, rfl⟩
  · exact ⟨rfl, rfl⟩

theorem SameBlock.sameSchedule {s t : State} (h : SameBlock s t) : SameSchedule s t := by
  rw [h]
  exact ⟨rfl, rfl⟩

/-- Every step keeps the schedule, is a reset, or is the first step of a command that writes it whole. -/
theorem schedule_of_step {s t : State} (h : step s = .next t) :
    SameSchedule s t ∨ (∃ rest, s.events = .reset :: rest) ∨ (WholeSchedule s t ∧ StartsExpansion s) := by
  rcases step_next h with ⟨-, h⟩ | ⟨rest, -, h⟩ | ⟨-, -, h⟩ | ⟨off, size, v, rest, -, rfl⟩ | ⟨rest, he, -⟩
  · exact (schedule_of_engineStep h).imp_right .inr
  · exact (schedule_of_engineStep h).imp_right .inr
  · exact .inl h.sameSchedule
  · exact .inl (sameSchedule_hostWrite off size v { s with events := rest })
  · exact .inr (.inl ⟨rest, he⟩)

/-! ### The statements -/

/-- Settles O24: the columns of a round key give the byte recurrence and the word recurrence. -/
theorem keyExpandRecurrence : Obligations.KeyExpandRecurrence := by
  refine ⟨fun key => ⟨get_zero_keyExpand key, fun r => ⟨fun j => ?_, fun j c hc => ?_⟩⟩, fun key i => ?_, fun s t h => ?_⟩
  · rw [get_succ_keyExpand, Block.entry, col_zero_nextRoundKey, Col.row_xor, row_scheduleWord]
    rfl
  · rw [get_succ_keyExpand, Block.entry, col_nextRoundKey_of_ne_zero _ _ hc, Col.row_xor]
    rfl
  · split
    · exact rkColumn_keyExpand_of_mod_eq_zero key ‹_›
    · exact rkColumn_keyExpand_of_mod_ne_zero key ‹_›
  · rw [exec_expandKey] at h
    cases h
    exact ⟨rfl, rfl⟩

/-- Settles O25: element r is `nextRoundKey` of element r-1 and Rcon[r], so agreement passes from each element to the next. -/
theorem scheduleElementsDeriveFromTheirPredecessor : Obligations.ScheduleElementsDeriveFromTheirPredecessor :=
  ⟨get_zero_keyExpand, ⟨fun r prev => nextRoundKey prev (rcon r), get_succ_keyExpand⟩,
    fun _ _ _ => get_keyExpand_eq_of_le⟩

/-- Settles O26, by what every step does to the schedule. -/
theorem onlyExpansionChangesTheSchedule : Obligations.OnlyExpansionChangesTheSchedule := by
  intro s t h hchange
  rcases schedule_of_step h with ⟨hrk, hvalid⟩ | hreset | ⟨⟨hrk, hvalid⟩, hcmd⟩
  · exact absurd hchange (not_or.2 ⟨not_not.2 hrk, not_not.2 hvalid⟩)
  · exact .inl hreset
  · exact .inr ⟨hrk, hvalid, hcmd⟩

/-- Settles O23: a second expansion of the same KEY writes the same schedule, and the worked example by evaluation. -/
theorem expandKeyWritesTheSchedule : Obligations.ExpandKeyWritesTheSchedule :=
  ⟨rfl, exec_expandKey, fun s => ⟨_, _, exec_expandKey s, exec_expandKey _, rfl, rfl⟩, by decide, by decide⟩

end Machine
end Sys2Proof
end

section
/-!
PROOF. The block cipher, ENC_BLOCK and DEC_BLOCK (O28 to O31): the ten rounds and their reverse as folds over the keys of
rounds 1 to 9, in both directions over one list. Each inverse round undoes its round, so the folds cancel; the standard's
inverse rounds are the same fold seen after InvShiftRows and InvSubBytes.
-/

namespace Sys2Proof

/-- 43 R195, R197: the keys of rounds 1 to 9, in the order the cipher uses them. -/
def RoundKeys.middle (rk : RoundKeys) : List Block := [rk.k1, rk.k2, rk.k3, rk.k4, rk.k5, rk.k6, rk.k7, rk.k8, rk.k9]

@[simp] theorem RoundKeys.length_middle (rk : RoundKeys) : rk.middle.length = 9 := rfl

theorem RoundKeys.getElem_middle (rk : RoundKeys) (i : Fin 9) :
    rk.middle[i.val]'i.isLt = rk.get ⟨i.val + 1, by omega⟩ := by
  fin_cases i <;> rfl

namespace Machine

/-! ### Folds over rounds 1 to 9 -/

/-- The block after rounds 1 to `i`, from the block before round 1. -/
def roundsUp (f : Block → Block → Block) (rk : RoundKeys) (a : Block) (i : Nat) : Block := (rk.middle.take i).foldl f a

/-- The block after rounds 9 down to `i`, from the block before round 9. -/
def roundsDown (g : Block → Block → Block) (rk : RoundKeys) (a : Block) (i : Nat) : Block :=
  (rk.middle.drop (i - 1)).foldr (fun k s => g s k) a

theorem roundsUp_succ (f : Block → Block → Block) (rk : RoundKeys) (a : Block) (i : Fin 9) :
    roundsUp f rk a (i.val + 1) = f (roundsUp f rk a i.val) (rk.get ⟨i.val + 1, by omega⟩) := by
  rw [roundsUp, List.take_succ_eq_append_getElem i.isLt, List.foldl_concat, rk.getElem_middle, roundsUp]

theorem roundsDown_succ (g : Block → Block → Block) (rk : RoundKeys) (a : Block) (i : Fin 9) :
    roundsDown g rk a (i.val + 1) = g (roundsDown g rk a (i.val + 2)) (rk.get ⟨i.val + 1, by omega⟩) := by
  rw [roundsDown, Nat.add_sub_cancel, List.drop_eq_getElem_cons i.isLt, List.foldr_cons, rk.getElem_middle, roundsDown]
  rfl

theorem cipher_eq_roundsUp (b : Block) (rk : RoundKeys) :
    cipher b rk = cipherLast (roundsUp cipherRound rk (addRoundKey b rk.k0) 9) rk.k10 := rfl

theorem invCipher_eq_roundsDown (b : Block) (rk : RoundKeys) :
    invCipher b rk = addRoundKey (roundsDown invCipherRound rk (invCipherFirst b rk.k10) 1) rk.k0 := rfl

/-- Where `g` undoes `f` under every key, the fold of `g` from the last key undoes the fold of `f` from the first. -/
theorem foldr_foldl_cancel {α β : Type} {f g : α → β → α} (h : ∀ s k, g (f s k) k = s) (ks : List β) (a : α) :
    ks.foldr (fun k s => g s k) (ks.foldl f a) = a := by
  induction ks generalizing a with
  | nil => rfl
  | cons k ks ih => rw [List.foldl_cons, List.foldr_cons, ih, h]

theorem foldl_foldr_cancel {α β : Type} {f g : α → β → α} (h : ∀ s k, f (g s k) k = s) (ks : List β) (a : α) :
    ks.foldl f (ks.foldr (fun k s => g s k) a) = a := by
  induction ks with
  | nil => rfl
  | cons k ks ih => rw [List.foldr_cons, List.foldl_cons, h, ih]

/-! ### Each inverse round undoes its round (41 R153, R156, R160, R162) -/

theorem invCipherRound_cipherRound (s k : Block) : invCipherRound (cipherRound s k) k = s := by
  rw [invCipherRound, cipherRound, addRoundKey_addRoundKey, (mixColumnsInverts _).1, invShiftRows_shiftRows,
    leftInverse_invSubBytes]

theorem cipherRound_invCipherRound (s k : Block) : cipherRound (invCipherRound s k) k = s := by
  rw [cipherRound, invCipherRound, rightInverse_invSubBytes, shiftRows_invShiftRows, (mixColumnsInverts _).2,
    addRoundKey_addRoundKey]

theorem invCipherFirst_cipherLast (s k : Block) : invCipherFirst (cipherLast s k) k = s := by
  rw [invCipherFirst, cipherLast, addRoundKey_addRoundKey, invShiftRows_shiftRows, leftInverse_invSubBytes]

theorem cipherLast_invCipherFirst (s k : Block) : cipherLast (invCipherFirst s k) k = s := by
  rw [cipherLast, invCipherFirst, rightInverse_invSubBytes, shiftRows_invShiftRows, addRoundKey_addRoundKey]

/-- 43 R199. -/
theorem invCipher_cipher (b : Block) (rk : RoundKeys) : invCipher (cipher b rk) rk = b := by
  have hmiddle : roundsDown invCipherRound rk (roundsUp cipherRound rk (addRoundKey b rk.k0) 9) 1
      = addRoundKey b rk.k0 := foldr_foldl_cancel invCipherRound_cipherRound rk.middle _
  rw [invCipher_eq_roundsDown, cipher_eq_roundsUp, invCipherFirst_cipherLast, hmiddle, addRoundKey_addRoundKey]

/-- 43 R199. -/
theorem cipher_invCipher (b : Block) (rk : RoundKeys) : cipher (invCipher b rk) rk = b := by
  have hmiddle : roundsUp cipherRound rk (roundsDown invCipherRound rk (invCipherFirst b rk.k10) 1) 9
      = invCipherFirst b rk.k10 := foldl_foldr_cancel cipherRound_invCipherRound rk.middle _
  rw [cipher_eq_roundsUp, invCipher_eq_roundsDown, addRoundKey_addRoundKey, hmiddle, cipherLast_invCipherFirst]

/-! ### The standard's order (43 R200) -/

/-- 43 R200: one of rounds 9 to 1 in the standard's order: InvShiftRows, InvSubBytes, AddRoundKey, InvMixColumns. -/
def standardInvRound (s k : Block) : Block := invMixColumns (addRoundKey (invSubBytes (invShiftRows s)) k)

/-- Both orders apply the same transforms in turn; the standard's rounds begin at InvShiftRows, where those of InvCipher end
after InvSubBytes. -/
theorem roundsDown_invCipherRound (rk : RoundKeys) (a : Block) (i : Nat) :
    roundsDown invCipherRound rk (invSubBytes (invShiftRows a)) i
      = invSubBytes (invShiftRows (roundsDown standardInvRound rk a i)) :=
  List.foldr_hom (fun s => invSubBytes (invShiftRows s)) fun _ _ => rfl

theorem invCipher_eq_standard (b : Block) (rk : RoundKeys) : invCipher b rk = addRoundKey
    (invSubBytes (invShiftRows (roundsDown standardInvRound rk (addRoundKey b rk.k10) 1))) rk.k0 := by
  rw [invCipher_eq_roundsDown, invCipherFirst, roundsDown_invCipherRound]

/-! ### The commands (43 R196, R198) -/

theorem cryptBlk_of_schedule (f : Block → RoundKeys → Block) {s : State} (h : s.ksValid = true) :
    cryptBlk f s = .next (finish .none { s with blk := f s.blk s.rk }) := by
  rw [cryptBlk_eq, if_pos h]

theorem cryptBlk_of_noSchedule (f : Block → RoundKeys → Block) {s : State} (h : s.ksValid = false) :
    cryptBlk f s = .next (finish .noSchedule s) := by
  rw [cryptBlk_eq, if_neg (Bool.eq_false_iff.1 h)]

/-! ### The statements -/

/-- Settles O28: the states are the folds over the first keys, and the worked example is evaluated. -/
theorem encBlockRunsTheCipher : Obligations.EncBlockRunsTheCipher :=
  ⟨rfl, fun _ h => cryptBlk_of_schedule cipher h, fun _ h => cryptBlk_of_noSchedule cipher h,
    fun b rk => ⟨roundsUp cipherRound rk (addRoundKey b rk.k0), rfl, roundsUp_succ cipherRound rk _,
      cipher_eq_roundsUp b rk⟩,
    by decide +kernel⟩

/-- Settles O29: the states are the folds from the last key, and the worked example is evaluated. -/
theorem decBlockRunsTheInverseCipher : Obligations.DecBlockRunsTheInverseCipher :=
  ⟨rfl, fun _ h => cryptBlk_of_schedule invCipher h, fun _ h => cryptBlk_of_noSchedule invCipher h,
    fun b rk => ⟨roundsDown invCipherRound rk (invCipherFirst b rk.k10), rfl, roundsDown_succ invCipherRound rk _,
      invCipher_eq_roundsDown b rk⟩,
    by decide +kernel⟩

/-- Settles O30: each round and its inverse cancel; DEC_BLOCK reads only BLK, RK and KS_VALID of the state between. -/
theorem cipherAndInverseCipherRoundTrip : Obligations.CipherAndInverseCipherRoundTrip := by
  refine ⟨fun b rk => ⟨invCipher_cipher b rk, cipher_invCipher b rk⟩, fun s h => ⟨_, cryptBlk_of_schedule cipher h, ?_⟩⟩
  intro t' hblk hrk hvalid
  refine ⟨_, cryptBlk_of_schedule invCipher (hvalid.trans h), ?_⟩
  calc invCipher t'.blk t'.rk = invCipher (cipher s.blk s.rk) s.rk := congrArg₂ invCipher hblk hrk
    _ = s.blk := invCipher_cipher s.blk s.rk

/-- Settles O31: the standard's fold gives the states, and InvShiftRows and InvSubBytes commute in the last round. -/
theorem inverseCipherStandardOrder : Obligations.InverseCipherStandardOrder := by
  refine fun b rk => ⟨roundsDown standardInvRound rk (addRoundKey b rk.k10), rfl, roundsDown_succ standardInvRound rk _,
    invCipher_eq_standard b rk, ?_⟩
  rw [invShiftRows_invSubBytes]
  exact invCipher_eq_standard b rk

end Machine
end Sys2Proof
end

section
/-!
PROOF. The functions of ECB mode (O32 to O35). A list of whole blocks is given by its blocks, so a list mapped block by block
and mapped back is the list itself; DecryptECB then depends on the last decrypted byte alone.
-/

namespace Sys2Proof.Machine

/-! ### Lists of whole blocks -/

theorem getElem?_eq_byte_blockAt {q : List Byte} {j : Nat} (h : j < q.length) :
    q[j]? = some ((blockAt q (j / 16)).byte ⟨j % 16, Nat.mod_lt _ (by decide)⟩) := by
  rw [byte_blockAt, Nat.div_add_mod, List.getD_eq_getElem _ _ h, List.getElem?_eq_getElem h]

/-- Two lists of whole blocks with the same blocks are the same list. -/
theorem ext_blockAt {q q' : List Byte} (hlen : q.length = q'.length) (hwhole : q.length % 16 = 0)
    (h : ∀ k < q.length / 16, blockAt q k = blockAt q' k) : q = q' := by
  refine List.ext_getElem? fun j => ?_
  by_cases hj : j < q.length
  · rw [getElem?_eq_byte_blockAt hj, getElem?_eq_byte_blockAt (hlen ▸ hj), h _ (by omega)]
  · rw [List.getElem?_eq_none (by omega), List.getElem?_eq_none (by omega)]

/-- A block is given by its sixteen bytes in the list. -/
theorem blockAt_congr {q q' : List Byte} {k k' : Nat} (h : ∀ j < 16, q[16 * k + j]? = q'[16 * k' + j]?) :
    blockAt q k = blockAt q' k' :=
  Block.ext_byte fun i => by
    rw [byte_blockAt, byte_blockAt, List.getD_eq_getElem?_getD, List.getD_eq_getElem?_getD, h i i.isLt]

theorem blockAt_mapBlocks (f : Block → Block) {q : List Byte} {k : Nat} (hk : k < q.length / 16) :
    blockAt (mapBlocks f q) k = f (blockAt q k) :=
  Block.ext_byte fun i => by
    rw [byte_blockAt, List.getD_eq_getElem?_getD, getElem?_mapBlocks f q hk, Option.getD_some]

theorem length_mapBlocks_of_whole (f : Block → Block) {q : List Byte} (hwhole : q.length % 16 = 0) :
    (mapBlocks f q).length = q.length := by
  rw [length_mapBlocks]
  omega

/-- Where `g` undoes `f`, mapping `g` block by block undoes mapping `f`. -/
theorem mapBlocks_mapBlocks_cancel {f g : Block → Block} (h : ∀ b, g (f b) = b) {q : List Byte}
    (hwhole : q.length % 16 = 0) : mapBlocks g (mapBlocks f q) = q := by
  have hf := length_mapBlocks_of_whole f hwhole
  have hgf : (mapBlocks g (mapBlocks f q)).length = q.length := by rw [length_mapBlocks_of_whole g (hf ▸ hwhole), hf]
  refine ext_blockAt hgf (hgf ▸ hwhole) fun k hk => ?_
  rw [hgf] at hk
  rw [blockAt_mapBlocks g (hf ▸ hk), blockAt_mapBlocks f hk, h]

/-! ### EncryptECB (44 R216) -/

theorem pad_whole (p : List Byte) : (pad p).length % 16 = 0 := by
  rw [length_pad, Nat.mul_mod_right]

@[simp] theorem length_encryptEcb (p : List Byte) (key : Block) :
    (encryptEcb p key).length = 16 * (p.length / 16 + 1) :=
  (length_mapBlocks_of_whole _ (pad_whole p)).trans (length_pad p)

theorem getElem?_encryptEcb (p : List Byte) (key : Block) {k : Nat} (hk : k < p.length / 16 + 1) (i : Fin 16) :
    (encryptEcb p key)[16 * k + i.val]? = some ((cipher (blockAt (pad p) k) (keyExpand key)).byte i) :=
  getElem?_mapBlocks _ _ (by rw [length_pad]; omega) i

/-! ### DecryptECB (44 R217) -/

/-- 44 R217: the list `q` of the decrypted blocks. -/
def decryptBlocks (c : List Byte) (key : Block) : List Byte := mapBlocks (invCipher · (keyExpand key)) c

theorem length_decryptBlocks {c : List Byte} (hwhole : c.length % 16 = 0) (key : Block) :
    (decryptBlocks c key).length = c.length :=
  length_mapBlocks_of_whole _ hwhole

/-- The last decrypted byte is byte 15 of the last block. -/
theorem getElem?_decryptBlocks_last {c : List Byte} (hwhole : c.length % 16 = 0) (hne : c ≠ []) (key : Block) :
    (decryptBlocks c key)[c.length - 1]?
      = some ((invCipher (blockAt c (c.length / 16 - 1)) (keyExpand key)).byte 15) := by
  have hpos := List.length_pos_of_ne_nil hne
  have hlast : c.length - 1 = 16 * (c.length / 16 - 1) + 15 := by omega
  rw [hlast]
  exact getElem?_mapBlocks _ c (by omega) 15

/-- 44 R217, R233: DecryptECB of a whole number of blocks, by the last decrypted byte. -/
theorem decryptEcb_of_last {c : List Byte} {key : Block} {last : Byte} (hwhole : c.length % 16 = 0) (hne : c ≠ [])
    (hlast : (decryptBlocks c key)[c.length - 1]? = some last) :
    decryptEcb c key =
      if last.toNat < 1 ∨ last.toNat > 16 ∨ last.toNat > c.length then .error .paddingError
      else .ok ((decryptBlocks c key).take (c.length - last.toNat)) := by
  have hbyte : (decryptBlocks c key).getD (c.length - 1) 0 = last := by
    rw [List.getD_eq_getElem?_getD, hlast, Option.getD_some]
  rw [decryptEcb, if_neg (not_not.2 hwhole), if_neg (List.length_eq_zero_iff.not.2 hne), ← hbyte]
  rfl

theorem decryptBlocks_encryptEcb (p : List Byte) (key : Block) : decryptBlocks (encryptEcb p key) key = pad p :=
  mapBlocks_mapBlocks_cancel (fun b => invCipher_cipher b (keyExpand key)) (pad_whole p)

/-- 44 R215: the last byte of a padded input is its pad length. -/
theorem getElem?_pad_last (p : List Byte) :
    (pad p)[16 * (p.length / 16 + 1) - 1]? = some (BitVec.ofNat 8 (padLength p.length)) :=
  getElem?_pad_right p (by omega) (by omega)

theorem toNat_padByte (len : Nat) : (BitVec.ofNat 8 (padLength len)).toNat = padLength len := by
  have hle := padLength_le len
  rw [BitVec.toNat_ofNat, Nat.mod_eq_of_lt (by omega)]

/-- 44 R215: the padding taken off again. -/
theorem take_pad (p : List Byte) : (pad p).take (16 * (p.length / 16 + 1) - padLength p.length) = p := by
  rw [← add_padLength, Nat.add_sub_cancel, pad, List.take_left]

/-! ### The statements -/

/-- Settles O32, by the bounds of the pad length. -/
theorem paddingIsOneToSixteenBytes : Obligations.PaddingIsOneToSixteenBytes := fun p =>
  ⟨padLength p.length, rfl, padLength_pos _, padLength_le _, fun h => by rw [padLength, h], rfl, length_pad p⟩

/-- Settles O33: byte i of block k is that of the cipher of block k of the padded input, which its sixteen bytes give. -/
theorem ecbEncryptsBlocksIndependently : Obligations.EcbEncryptsBlocksIndependently := by
  refine ⟨fun p key => ⟨length_encryptEcb p key, fun k hk i => getElem?_encryptEcb p key hk i⟩,
    fun p p' key k k' hk hk' h j hj => ?_⟩
  have hbyte := getElem?_encryptEcb p key hk ⟨j, hj⟩
  have hbyte' := getElem?_encryptEcb p' key hk' ⟨j, hj⟩
  rw [blockAt_congr h] at hbyte
  exact hbyte.trans hbyte'.symm

/-- Settles O34, by the three checks of DecryptECB in turn. -/
theorem ecbDecryptChecksLengthThenLastByte : Obligations.EcbDecryptChecksLengthThenLastByte := by
  refine fun c key => ⟨fun h => by rw [decryptEcb, if_pos h], fun h => by rw [h]; rfl, fun hwhole hne => ?_⟩
  have hlast := getElem?_decryptBlocks_last hwhole hne key
  have hlen : 16 ≤ c.length := by
    have := List.length_pos_of_ne_nil hne
    omega
  refine ⟨decryptBlocks c key, length_decryptBlocks hwhole key, fun k hk i => getElem?_mapBlocks _ c hk i, _, hlast,
    fun hbad => ?_, fun hlow hhigh => ?_⟩
  · rw [decryptEcb_of_last hwhole hne hlast, if_pos hbad]
  · rw [decryptEcb_of_last hwhole hne hlast, if_neg (by omega)]

/-- Settles O35: the decrypted blocks are the padded plaintext, whose last byte says how much of it to leave out. -/
theorem ecbDecryptUndoesEncrypt : Obligations.EcbDecryptUndoesEncrypt := by
  intro p key
  have hlen := length_encryptEcb p key
  have hwhole : (encryptEcb p key).length % 16 = 0 := by rw [hlen, Nat.mul_mod_right]
  have hne : encryptEcb p key ≠ [] := List.ne_nil_of_length_pos (by omega)
  have hlast : (decryptBlocks (encryptEcb p key) key)[(encryptEcb p key).length - 1]?
      = some (BitVec.ofNat 8 (padLength p.length)) := by
    rw [decryptBlocks_encryptEcb, hlen, getElem?_pad_last]
  have hlow := padLength_pos p.length
  have hhigh := padLength_le p.length
  rw [decryptEcb_of_last hwhole hne hlast, toNat_padByte, if_neg (by omega), decryptBlocks_encryptEcb, hlen, take_pad]

end Sys2Proof.Machine
end

section
/-!
PROOF. The steps of the ECB sequencer (O36, O37, O39 to O42, O44, O45, O60): the equation of each step under its own range
conditions, from which its statement reads off the bytes and the frame.
-/

namespace Sys2Proof.Machine

/-- 20_memory R79: a block written at `a` leaves every byte outside its sixteen alone. -/
theorem Memory.read_writeBlock_outside (m : Memory) (b : Block) {a x : Nat} (h : x < a ∨ a + 16 ≤ x) :
    (m.writeBytes a b.toList).read x = m.read x :=
  Memory.read_writeBytes_outside m a b.toList h

/-! ### The setup steps (44 R221, R225) -/

/-- 44 R221: what ECB_ENC's setup step leaves when its checks pass. -/
theorem execEcbEnc_of_inRange {s : State} (hsrc : s.src.toNat + s.len.toNat ≤ s.bufBytes)
    (hdst : s.dst.toNat + 16 * (s.len.toNat / 16 + 1) ≤ s.bufBytes) :
    execEcbEnc s = .next
      { s with
        n := s.len.toNat / 16 + 1, padLen := 16 - s.len.toNat % 16
        rk := keyExpand s.key, ksValid := true, phase := .ecbEnc 0 } := by
  rw [execEcbEnc, if_neg (by omega), if_neg (by omega)]
  rfl

/-- 44 R225: what ECB_DEC's setup step leaves when its checks pass. -/
theorem execEcbDec_of_valid {s : State} (hwhole : s.len.toNat % 16 = 0)
    (hsrc : s.src.toNat + s.len.toNat ≤ s.bufBytes) (hne : s.len.toNat ≠ 0) :
    execEcbDec s = .next
      { s with
        n := s.len.toNat / 16, rk := keyExpand s.key, ksValid := true, phase := .ecbDecValidate } := by
  rw [execEcbDec, if_neg (by omega), if_neg (by omega), if_neg hne]
  rfl

/-! ### Block boundaries (44 R231) -/

/-- A pending abort ends the command whatever the next step was to be. -/
theorem engineStep_of_abort {s : State} (ha : s.abortReq = true)
    (hp : s.phase = .ecbDecValidate ∨ ∃ k, s.phase = .ecbEnc k ∨ s.phase = .ecbDec k) :
    engineStep s = .next (finish .aborted s) := by
  rcases hp with hp | ⟨k, hp | hp⟩ <;> simp only [engineStep, hp, atBoundary, ha, if_true, raise]

theorem atBoundary_of_no_abort {s : State} (ha : s.abortReq = false) (f : State → Result) : atBoundary f s = f s := by
  rw [atBoundary, ha, if_neg Bool.false_ne_true]

theorem engineStep_ecbEnc {s : State} {k : Nat} (hp : s.phase = .ecbEnc k) (ha : s.abortReq = false) :
    engineStep s = ecbEncBlock k s := by
  simp only [engineStep, hp, atBoundary_of_no_abort ha]

theorem engineStep_ecbDecValidate {s : State} (hp : s.phase = .ecbDecValidate) (ha : s.abortReq = false) :
    engineStep s = ecbDecValidate s := by
  simp only [engineStep, hp, atBoundary_of_no_abort ha]

theorem engineStep_ecbDec {s : State} {k : Nat} (hp : s.phase = .ecbDec k) (ha : s.abortReq = false) :
    engineStep s = ecbDecBlock k s := by
  simp only [engineStep, hp, atBoundary_of_no_abort ha]

/-! ### The block steps of ECB_ENC (44 R222) -/

/-- Block step k exists, and completes exactly for the final block. -/
theorem ecbEncBlock_eq {s : State} {k : Nat} (hn : s.n = s.len.toNat / 16 + 1)
    (hpad : s.padLen = 16 - s.len.toNat % 16) (hk : k < s.n) (hsrc : s.src.toNat + s.len.toNat ≤ s.bufBytes)
    (hdst : s.dst.toNat + 16 * s.n ≤ s.bufBytes) : ecbEncBlock k s = .next
    (if k + 1 = s.n then finish .none { encWrite s k with outlen := BitVec.ofNat 32 (16 * s.n) }
      else { encWrite s k with phase := .ecbEnc (k + 1) }) := by
  have hrule : encStepHasRule s k = true := by
    simp only [encStepHasRule, Bool.and_eq_true, Bool.or_eq_true, decide_eq_true_eq]
    omega
  have hread : s.bufHolds (s.src.toNat + 16 * k) (encInputBytes s k) = true := by
    apply bufHolds_of_le
    unfold encInputBytes
    split <;> omega
  have hwrite : s.bufHolds (s.dst.toNat + 16 * k) 16 = true := bufHolds_of_le (by omega)
  simp only [ecbEncBlock, hrule, hread, hwrite, Bool.not_true, Bool.false_eq_true, if_false]
  split <;> rfl

/-- 44 R222: the bytes block step k reads, and the pad bytes after them in the final block. -/
theorem encInputBlock_eq {s : State} {k : Nat} (hk : k < s.n) : encInputBlock s k = .ofBytes fun j =>
    if k < s.n - 1 ∨ j.val < s.len.toNat % 16 then s.buf.read (s.src.toNat + 16 * k + j.val)
    else BitVec.ofNat 8 s.padLen := by
  refine congrArg Block.ofBytes (funext fun j => ?_)
  have hread : j.val < encInputBytes s k ↔ k < s.n - 1 ∨ j.val < s.len.toNat % 16 := by
    unfold encInputBytes
    split <;> omega
  simp only [hread]

/-! ### The steps of ECB_DEC (44 R226 to R228) -/

/-- 44 R226: the plaintext W of the final block. -/
def finalPlaintext (s : State) : Block := invCipher (s.buf.readBlock (s.src.toNat + 16 * (s.n - 1))) s.rk

/-- 44 R226: the state with W and padLen assigned. -/
def holdFinal (s : State) : State := { s with w := finalPlaintext s, padLen := ((finalPlaintext s).byte 15).toNat }

/-- 44 R226: the validation step of a nonempty input that lies in BUF: the pad length is checked, then the output range. -/
theorem ecbDecValidate_eq {s : State} (hn : s.n ≠ 0) (hsrc : s.src.toNat + 16 * (s.n - 1) + 16 ≤ s.bufBytes) :
    ecbDecValidate s = .next
      (if ((finalPlaintext s).byte 15).toNat < 1 ∨ ((finalPlaintext s).byte 15).toNat > 16
          ∨ ((finalPlaintext s).byte 15).toNat > s.len.toNat then finish .paddingError (holdFinal s)
        else if s.dst.toNat + (s.len.toNat - ((finalPlaintext s).byte 15).toNat) > s.bufBytes then
          finish .rangeError (holdFinal s)
        else { holdFinal s with phase := .ecbDec 0 }) := by
  simp only [ecbDecValidate, hn, bufHolds_of_le hsrc, Bool.not_true, Bool.false_eq_true, if_false]
  rw [← finalPlaintext, ← holdFinal]
  split
  · rfl
  · split <;> rfl

/-- 44 R227: a block step whose two blocks lie in BUF. -/
theorem ecbDecBlock_of_lt {s : State} {k : Nat} (hk : k + 1 < s.n) (hsrc : s.src.toNat + 16 * k + 16 ≤ s.bufBytes)
    (hdst : s.dst.toNat + 16 * k + 16 ≤ s.bufBytes) :
    ecbDecBlock k s = .next { s with
      buf := s.buf.writeBytes (s.dst.toNat + 16 * k)
        (invCipher (s.buf.readBlock (s.src.toNat + 16 * k)) s.rk).toList
      blkcnt := s.blkcnt + 1, phase := .ecbDec (k + 1) } := by
  simp only [ecbDecBlock, hk, ecbDecCopy, bufHolds_of_le hsrc, bufHolds_of_le hdst, Bool.not_true,
    Bool.false_eq_true, if_true, if_false]

/-- 44 R228: the final step, for a legal pad length and an output that lies in BUF. -/
theorem ecbDecBlock_of_last {s : State} {k : Nat} (hk : k + 1 = s.n) (hpad : s.padLen ≤ 16)
    (hlen : s.padLen ≤ s.len.toNat) (hdst : s.dst.toNat + 16 * (s.n - 1) + (16 - s.padLen) ≤ s.bufBytes) :
    ecbDecBlock k s = .next (finish .none { s with
      buf := s.buf.writeBytes (s.dst.toNat + 16 * (s.n - 1)) (s.w.toList.take (16 - s.padLen))
      blkcnt := s.blkcnt + 1, outlen := BitVec.ofNat 32 (s.len.toNat - s.padLen) }) := by
  have hrule : ¬(s.padLen > 16 ∨ s.padLen > s.len.toNat) := by omega
  simp only [ecbDecBlock, hk, lt_irrefl, ecbDecFinal, hrule, bufHolds_of_le hdst, complete, Bool.not_true,
    Bool.false_eq_true, if_true, if_false]

/-- 44 R234: past its setup step ECB_DEC has at least one block. -/
theorem State.DecInv.sixteen_le {s : State} {k : Nat} (h : s.DecInv k) : 16 ≤ s.len.toNat := by
  have hwhole := h.whole
  have hpos := h.nonempty
  omega

/-! ### The statements -/

/-- Settles O36, by the ways the setup step can end: a failed check, or all checks passed. -/
theorem ecbEncSetup : Obligations.EcbEncSetup := by
  refine fun s => ⟨fun hbad => ?_, execEcbEnc_of_inRange⟩
  obtain ⟨t, ht⟩ := exec_exists .ecbEnc s
  rcases execEcbEnc_next ht with ⟨-, rfl⟩ | ⟨hsrc, hdst, -⟩
  · exact ⟨_, ht, rfl⟩
  · omega

/-- Settles O39, one check after the other. -/
theorem ecbDecSetup : Obligations.EcbDecSetup := by
  refine fun s => ⟨fun hragged => ?_, fun hwhole hsrc => ?_, fun hempty hsrc => ?_, execEcbDec_of_valid⟩
  · rw [exec, execEcbDec, if_pos hragged]
    rfl
  · rw [exec, execEcbDec, if_neg (by omega), if_pos hsrc]
    rfl
  · rw [exec, execEcbDec, if_neg (by omega), if_neg (by omega), if_pos hempty]
    rfl

/-- Settles O37, by the equation of the block step; the worked example is evaluated. -/
theorem ecbEncBlockStep : Obligations.EcbEncBlockStep := by
  refine ⟨fun s k hp ha hn hpad hk hsrc hdst => ?_, by decide +kernel⟩
  obtain ⟨t, ht⟩ : ∃ t, ecbEncBlock k s = .next t := ⟨_, ecbEncBlock_eq hn hpad hk hsrc hdst⟩
  obtain ⟨-, -, -, hend⟩ := ecbEncBlock_next ht
  have hbuf : t.buf = (encWrite s k).buf := by rcases hend with ⟨-, rfl⟩ | ⟨-, rfl⟩ <;> rfl
  refine ⟨t, (engineStep_ecbEnc hp ha).trans ht, fun i => ?_, fun x hx => ?_, fun hlast => ?_, fun hlast => ?_⟩
  · rw [hbuf, encWrite_buf, Memory.read_writeBlock, encInputBlock_eq hk]
  · rw [hbuf, encWrite_buf, Memory.read_writeBlock_outside _ _ hx]
  · rcases hend with ⟨-, rfl⟩ | ⟨hne, -⟩
    · rfl
    · omega
  · rcases hend with ⟨heq, -⟩ | ⟨-, rfl⟩
    · omega
    · rfl

/-- Settles O40, by the equation of the validation step. -/
theorem ecbDecValidationStep : Obligations.EcbDecValidationStep := by
  intro s hp ha hn hwhole hpos hsrc
  have hstep := (engineStep_ecbDecValidate hp ha).trans (ecbDecValidate_eq (by omega) (by omega))
  refine ⟨finalPlaintext s, rfl, fun hbad => ?_, fun hlow hhigh hdst => ?_, fun hlow hhigh hdst => ?_⟩
  · rw [if_pos hbad] at hstep
    exact ⟨_, hstep, rfl⟩
  · rw [if_neg (by omega), if_pos hdst] at hstep
    exact ⟨_, hstep, rfl⟩
  · rw [if_neg (by omega), if_neg (by omega)] at hstep
    exact hstep

/-- Settles O41, by the equation of the block step. -/
theorem ecbDecBlockStep : Obligations.EcbDecBlockStep := by
  intro s k hp ha hk hsrc hdst
  refine ⟨_, (engineStep_ecbDec hp ha).trans (ecbDecBlock_of_lt (by omega) (by omega) (by omega)), fun i => ?_,
    fun x hx => ?_, rfl⟩
  · rw [Memory.read_writeBlock]
    rfl
  · rw [Memory.read_writeBlock_outside _ _ hx]

/-- Settles O42, by the equation of the final step; the worked example is evaluated. -/
theorem ecbDecFinalStep : Obligations.EcbDecFinalStep := by
  refine ⟨fun s hp ha hn hlow hhigh hlen hdst => ?_, by decide +kernel⟩
  have hcount : (s.w.toList.take (16 - s.padLen)).length = 16 - s.padLen := by simp
  refine ⟨_, (engineStep_ecbDec hp ha).trans (ecbDecBlock_of_last (by omega) hhigh (by omega) (by omega)),
    fun i hi => ?_, fun x hx => ?_, rfl⟩
  · have hbyte : (s.w.toList.take (16 - s.padLen))[i.val]? = some (s.w.byte i) := by
      rw [List.getElem?_take_of_lt hi, Block.getElem?_toList]
    exact Memory.read_writeBytes_inside s.buf _ _ hbyte
  · exact Memory.read_writeBytes_outside s.buf _ (s.w.toList.take (16 - s.padLen)) (by rwa [hcount])

/-- Settles O44: the write's effect and the two reads, register by register. -/
theorem ctrlWriteRequestsAbort : Obligations.CtrlWriteRequestsAbort := by
  refine ⟨fun s v => ?_, fun s => ⟨?_, ?_⟩⟩
  · rw [show (0x0000 : Nat) = Reg.ctrl.offset from rfl, hostWrite_offset]
    exact ⟨rfl, rfl⟩
  · have hctrl : readReg .ctrl s = if s.ie then 1 else 0 := by
      unfold readReg State.ctrlWord
      cases s.ie <;> rfl
    rw [← hctrl]
    exact hostRead_offset .ctrl s (Bool.and_false _)
  · have hstatus : hostRead 0x0004 4 s = (⟨s.statusWord, false⟩, s) := hostRead_offset .status s (Bool.and_false _)
    rw [hstatus]
    exact getLsbD_statusWord s 4

/-- Settles O45: the abort's step, and what the invariant says of OUTLEN and BLKCNT in each phase. -/
theorem abortEndsTheCommandAtABoundary : Obligations.AbortEndsTheCommandAtABoundary := by
  intro s hs ha hp
  have hbusy : s.busy = true := by
    rcases hp with hp | ⟨k, hp | hp⟩ <;> simp [State.busy, hp]
  obtain ⟨-, -, hout⟩ := hs.flags.running hbusy
  have hphase := hs.phase
  refine ⟨_, engineStep_of_abort ha hp, rfl, hout, fun hv => ?_, fun k hk => ?_⟩
  · simp only [State.PhaseInv, hv] at hphase
    exact BitVec.eq_of_toNat_eq hphase.blocks
  · rcases hk with hk | hk <;> simp only [State.PhaseInv, hk] at hphase
    · exact hphase.blocks
    · exact hphase.1.blocks

/-- Settles O60: LEN is a positive multiple of 16, so a pad length of at most 16 is at most LEN; PADDING_ERROR comes from the
check of the pad length alone. -/
theorem padLengthNeverExceedsLength : Obligations.PadLengthNeverExceedsLength := by
  refine ⟨fun s hs hp => ?_, fun s k hs hp => ?_⟩
  · have hphase := hs.phase
    simp only [State.PhaseInv, hp] at hphase
    have hlen : 16 ≤ s.len.toNat := hphase.sixteen_le
    refine ⟨hlen, _, rfl, by omega, fun t ht hcode => ?_⟩
    cases ha : s.abortReq with
    | true =>
      rw [engineStep_of_abort ha (.inl hp)] at ht
      cases ht
      exact absurd (show ErrKind.aborted.code = 0x04 from hcode) (by decide)
    | false =>
      rw [engineStep_ecbDecValidate hp ha] at ht
      obtain ⟨-, -, w, rfl, ⟨hbad, -⟩ | ⟨-, -, rfl⟩ | ⟨-, -, rfl⟩⟩ := ecbDecValidate_next ht
      · omega
      · exact absurd (show ErrKind.rangeError.code = 0x04 from hcode) (by decide)
      · obtain ⟨-, hnone, -⟩ := hs.flags.running (by simp [State.busy, hp])
        exact absurd (hnone.symm.trans hcode) (by decide)
  · have hphase := hs.phase
    simp only [State.PhaseInv, hp] at hphase
    obtain ⟨hdec, hwrite⟩ := hphase
    have hlen := hdec.sixteen_le
    exact ⟨hlen, hwrite.padLow, hwrite.padHigh, hwrite.padHigh.trans hlen⟩

end Sys2Proof.Machine
end

section
/-!
PROOF. An undisturbed ECB command from its first step to its completion (O38, O43). Before block step k, BUF is BUF as it was
at acceptance with the first k blocks of the result written at DST; where the ranges do not overlap or DST ≤ SRC, the input of
block k is not among the bytes written.
-/

namespace Sys2Proof.Machine

/-! ### Byte lists in BUF -/

theorem Memory.writeBytes_append (m : Memory) (a : Nat) (xs ys : List Byte) :
    m.writeBytes a (xs ++ ys) = (m.writeBytes a xs).writeBytes (a + xs.length) ys := by
  induction xs generalizing m a with
  | nil => rfl
  | cons x xs ih =>
    rw [List.cons_append, Memory.writeBytes, Memory.writeBytes, ih, List.length_cons, Nat.add_assoc, Nat.add_comm 1]

theorem Memory.readBytes_writeBytes (m : Memory) (a : Nat) (xs : List Byte) :
    (m.writeBytes a xs).readBytes a xs.length = xs :=
  Memory.readBytes_eq rfl fun j hj => by
    rw [Memory.read_writeBytes_inside m a xs (List.getElem?_eq_getElem hj), List.getElem?_eq_getElem hj]

/-- 20_memory R79: a block that lies in the bytes read. -/
theorem blockAt_readBytes (m : Memory) (a : Nat) {n k : Nat} (h : 16 * k + 16 ≤ n) :
    blockAt (m.readBytes a n) k = m.readBlock (a + 16 * k) :=
  Block.ext_byte fun i => by
    rw [byte_blockAt, List.getD_eq_getElem?_getD, Memory.getElem?_readBytes m a n (by omega), Option.getD_some,
      Memory.readBlock, Block.byte_ofBytes, Nat.add_assoc]

/-- The first `k` blocks of `q`, each through `f`, concatenated. -/
def firstBlocks (f : Block → Block) (q : List Byte) (k : Nat) : List Byte :=
  (List.range k).flatMap fun i => (f (blockAt q i)).toList

theorem mapBlocks_eq_firstBlocks (f : Block → Block) (q : List Byte) : mapBlocks f q = firstBlocks f q (q.length / 16) :=
  rfl

theorem firstBlocks_succ (f : Block → Block) (q : List Byte) (k : Nat) :
    firstBlocks f q (k + 1) = firstBlocks f q k ++ (f (blockAt q k)).toList := by
  simp [firstBlocks, List.range_succ]

@[simp] theorem length_firstBlocks (f : Block → Block) (q : List Byte) (k : Nat) : (firstBlocks f q k).length = 16 * k :=
  length_flatMap_blocks (fun i => f (blockAt q i)) k

/-- Once the first `k` blocks are written, writing block `k` after them has written the first `k + 1`. -/
theorem writeBytes_firstBlocks_succ (m : Memory) (a : Nat) (f : Block → Block) (q : List Byte) (k : Nat) :
    (m.writeBytes a (firstBlocks f q k)).writeBytes (a + 16 * k) (f (blockAt q k)).toList
      = m.writeBytes a (firstBlocks f q (k + 1)) := by
  rw [firstBlocks_succ, Memory.writeBytes_append, length_firstBlocks]

/-- A byte below DST or above the first `k` blocks still holds what it held at acceptance. -/
theorem read_writeBytes_firstBlocks (m : Memory) {a x k : Nat} (f : Block → Block) (q : List Byte)
    (h : x < a ∨ a + 16 * k ≤ x) : (m.writeBytes a (firstBlocks f q k)).read x = m.read x :=
  Memory.read_writeBytes_outside _ _ _ (by rwa [length_firstBlocks])

/-- 44 R215: a padded input holds the input and then the pad length. -/
theorem byte_blockAt_pad (p : List Byte) {k : Nat} (hk : k < p.length / 16 + 1) (i : Fin 16) :
    (blockAt (pad p) k).byte i =
      if 16 * k + i.val < p.length then p.getD (16 * k + i.val) 0 else BitVec.ofNat 8 (padLength p.length) := by
  rw [byte_blockAt, List.getD_eq_getElem?_getD]
  split
  · rw [getElem?_pad_left p ‹_›, List.getD_eq_getElem?_getD]
  · rw [getElem?_pad_right p (by omega) (by omega), Option.getD_some]

/-- 44 R223, R232: the input bytes of an ECB command as they are in `s`. -/
def inputBytes (s : State) : List Byte := s.bytesAt s.src.toNat s.len.toNat

@[simp] theorem length_inputBytes (s : State) : (inputBytes s).length = s.len.toNat := Memory.length_readBytes _ _ _

theorem getElem?_inputBytes (s : State) {j : Nat} (h : j < s.len.toNat) :
    (inputBytes s)[j]? = some (s.buf.read (s.src.toNat + j)) :=
  Memory.getElem?_readBytes _ _ _ h

/-! ### Undisturbed steps -/

theorem blkcnt_add_succ (b : Word) (k : Nat) : b + BitVec.ofNat 32 k + 1 = b + BitVec.ofNat 32 (k + 1) := by
  rw [BitVec.ofNat_add, BitVec.add_assoc]
  rfl

theorem step_of_no_events {s : State} (h : s.events = []) : step s = engineStep s := by
  simp only [step, h]

theorem step_ecbEnc {s : State} {k : Nat} (he : s.events = []) (hp : s.phase = .ecbEnc k) (ha : s.abortReq = false) :
    step s = ecbEncBlock k s :=
  (step_of_no_events he).trans (engineStep_ecbEnc hp ha)

theorem step_ecbDec {s : State} {k : Nat} (he : s.events = []) (hp : s.phase = .ecbDec k) (ha : s.abortReq = false) :
    step s = ecbDecBlock k s :=
  (step_of_no_events he).trans (engineStep_ecbDec hp ha)

theorem run_step {s t : State} (h : step s = .next t) (d : Nat) : core.run (d + 1) s = core.run d t := by
  have hcore : core.step s = .next t := h
  simp only [Host.Core.run, hcore]

/-- A chain of steps, run to its end. -/
theorem run_chain {f : Nat → State} {d : Nat} (h : ∀ k < d, step (f k) = .next (f (k + 1))) (e : Nat) :
    core.run (d + e) (f 0) = core.run e (f d) := by
  induction d generalizing f with
  | zero => rw [Nat.zero_add]
  | succ d ih =>
    rw [Nat.add_right_comm, run_step (h 0 (Nat.succ_pos d))]
    exact ih (f := fun k => f (k + 1)) fun k hk => h (k + 1) (Nat.succ_lt_succ hk)

/-! ### ECB_ENC (44 R223) -/

/-- 44 R221, R222: the state before block step `k`, from the state of acceptance. -/
def encBefore (s : State) (k : Nat) : State :=
  { s with
    n := s.len.toNat / 16 + 1, padLen := 16 - s.len.toNat % 16, rk := keyExpand s.key, ksValid := true
    buf := s.buf.writeBytes s.dst.toNat
      (firstBlocks (cipher · (keyExpand s.key)) (pad (inputBytes s)) k)
    blkcnt := s.blkcnt + BitVec.ofNat 32 k, phase := .ecbEnc k }

@[simp] theorem encBefore_n (s : State) (k : Nat) : (encBefore s k).n = s.len.toNat / 16 + 1 := rfl
@[simp] theorem encBefore_len (s : State) (k : Nat) : (encBefore s k).len = s.len := rfl

/-- 44 R222, R223: the state at completion. -/
def encDone (s : State) : State :=
  finish .none { encBefore s (s.len.toNat / 16 + 1) with outlen := BitVec.ofNat 32 (16 * (s.len.toNat / 16 + 1)) }

/-- 44 R223: the ranges do not overlap, or DST ≤ SRC. -/
def EncApart (s : State) : Prop :=
  (s.dst.toNat + 16 * (s.len.toNat / 16 + 1) ≤ s.src.toNat ∨ s.src.toNat + s.len.toNat ≤ s.dst.toNat)
    ∨ s.dst.toNat ≤ s.src.toNat

section Enc

variable {s : State} {k : Nat}

/-- Block step k reads block k of the padded input as it was at acceptance. -/
theorem encInputBlock_encBefore (hapart : EncApart s) (hk : k < s.len.toNat / 16 + 1) :
    encInputBlock (encBefore s k) k = blockAt (pad (inputBytes s)) k := by
  refine Block.ext_byte fun i => ?_
  rw [byte_blockAt_pad _ ((length_inputBytes s).symm ▸ hk), length_inputBytes, encInputBlock, Block.byte_ofBytes]
  have hread : i.val < encInputBytes (encBefore s k) k ↔ 16 * k + i.val < s.len.toNat := by
    rw [encInputBytes, encBefore_n, encBefore_len]
    split <;> omega
  simp only [hread]
  split
  · have hout : s.src.toNat + 16 * k + i.val < s.dst.toNat ∨ s.dst.toNat + 16 * k ≤ s.src.toNat + 16 * k + i.val := by
      unfold EncApart at hapart
      omega
    rw [List.getD_eq_getElem?_getD, getElem?_inputBytes s ‹_›, Option.getD_some, ← Nat.add_assoc]
    exact read_writeBytes_firstBlocks _ _ _ hout
  · rfl

theorem encWrite_encBefore (hapart : EncApart s) (hk : k < s.len.toNat / 16 + 1) :
    encWrite (encBefore s k) k = { encBefore s (k + 1) with phase := .ecbEnc k } := by
  rw [encWrite, encInputBlock_encBefore hapart hk]
  simp only [encBefore, writeBytes_firstBlocks_succ s.buf s.dst.toNat (cipher · (keyExpand s.key)), blkcnt_add_succ]

theorem step_start_ecbEnc (hp : s.phase = .start 0x00000004) (he : s.events = [])
    (hsrc : s.src.toNat + s.len.toNat ≤ s.bufBytes) (hdst : s.dst.toNat + 16 * (s.len.toNat / 16 + 1) ≤ s.bufBytes) :
    step s = .next (encBefore s 0) := by
  have hstart : engineStep s = execEcbEnc s := by
    simp only [engineStep, hp]
    rfl
  rw [step_of_no_events he, hstart, execEcbEnc_of_inRange hsrc hdst, encBefore, BitVec.add_zero]
  rfl

variable (he : s.events = []) (ha : s.abortReq = false) (hsrc : s.src.toNat + s.len.toNat ≤ s.bufBytes)
  (hdst : s.dst.toNat + 16 * (s.len.toNat / 16 + 1) ≤ s.bufBytes) (hapart : EncApart s)
include he ha hsrc hdst hapart

/-- Block step k, before the final one. -/
theorem step_encBefore (hk : k < s.len.toNat / 16) : step (encBefore s k) = .next (encBefore s (k + 1)) := by
  have hindex : k < s.len.toNat / 16 + 1 := by omega
  have hmore : k + 1 ≠ (encBefore s k).n := by
    rw [encBefore_n]
    omega
  have hstep : step (encBefore s k) = ecbEncBlock k (encBefore s k) := step_ecbEnc he rfl ha
  rw [hstep, ecbEncBlock_eq (s := encBefore s k) rfl rfl hindex hsrc hdst, if_neg hmore, encWrite_encBefore hapart hindex]
  rfl

/-- The final block step. -/
theorem step_encBefore_last : step (encBefore s (s.len.toNat / 16)) = .next (encDone s) := by
  have hindex : s.len.toNat / 16 < s.len.toNat / 16 + 1 := Nat.lt_succ_self _
  have hstep : step (encBefore s (s.len.toNat / 16)) = ecbEncBlock (s.len.toNat / 16) (encBefore s (s.len.toNat / 16)) :=
    step_ecbEnc he rfl ha
  rw [hstep, ecbEncBlock_eq (s := encBefore s _) rfl rfl hindex hsrc hdst, if_pos (encBefore_n s _).symm,
    encWrite_encBefore hapart hindex]
  rfl

/-- The whole command, in n + 1 steps. -/
theorem run_ecbEnc (hp : s.phase = .start 0x00000004) : core.run (s.len.toNat / 16 + 2) s = .next (encDone s) := by
  calc core.run (s.len.toNat / 16 + 2) s = core.run (s.len.toNat / 16 + 1) (encBefore s 0) :=
        run_step (step_start_ecbEnc hp he hsrc hdst) _
    _ = core.run 1 (encBefore s (s.len.toNat / 16)) :=
        run_chain (f := encBefore s) (fun _ hk => step_encBefore he ha hsrc hdst hapart hk) 1
    _ = .next (encDone s) := run_step (step_encBefore_last he ha hsrc hdst hapart) 0

end Enc

theorem encDone_buf (s : State) :
    (encDone s).buf = s.buf.writeBytes s.dst.toNat (encryptEcb (inputBytes s) s.key) := by
  rw [encryptEcb, mapBlocks_eq_firstBlocks, length_pad, length_inputBytes, Nat.mul_div_cancel_left _ (by decide)]
  rfl

/-- Settles O38, by the chain of the block steps. -/
theorem ecbEncComputesEncryptEcb : Obligations.EcbEncComputesEncryptEcb := by
  intro s hp he ha hsrc hdst hapart
  have hlen : (encryptEcb (inputBytes s) s.key).length = 16 * (s.len.toNat / 16 + 1) := by
    rw [length_encryptEcb, length_inputBytes]
  refine ⟨encDone s, run_ecbEnc he ha hsrc hdst hapart hp, ?_, fun x hx => ?_, rfl, rfl, rfl, rfl, rfl, rfl, rfl, rfl, rfl⟩
  · rw [State.bytesAt, ← hlen, encDone_buf, Memory.readBytes_writeBytes]
    rfl
  · rw [encDone_buf]
    exact Memory.read_writeBytes_outside _ _ _ (by rwa [hlen])

/-! ### ECB_DEC (44 R232) -/

/-- 44 R226: the plaintext W of the final block of the input. -/
def decFinal (s : State) : Block := invCipher (blockAt (inputBytes s) (s.len.toNat / 16 - 1)) (keyExpand s.key)

/-- 44 R226: the pad length. -/
def decPad (s : State) : Nat := ((decFinal s).byte 15).toNat

/-- 44 R225: the state before the validation step, from the state of acceptance. -/
def decChecked (s : State) : State :=
  { s with n := s.len.toNat / 16, rk := keyExpand s.key, ksValid := true, phase := .ecbDecValidate }

@[simp] theorem decChecked_n (s : State) : (decChecked s).n = s.len.toNat / 16 := rfl

/-- 44 R226, R227: the state before block step `k` or, for the last `k`, the final step. -/
def decBefore (s : State) (k : Nat) : State :=
  { decChecked s with
    w := decFinal s, padLen := decPad s
    buf := s.buf.writeBytes s.dst.toNat (firstBlocks (invCipher · (keyExpand s.key)) (inputBytes s) k)
    blkcnt := s.blkcnt + BitVec.ofNat 32 k, phase := .ecbDec k }

@[simp] theorem decBefore_n (s : State) (k : Nat) : (decBefore s k).n = s.len.toNat / 16 := rfl

/-- 44 R228, R232: the state at completion. -/
def decDone (s : State) : State :=
  finish .none { decChecked s with
    w := decFinal s, padLen := decPad s
    buf := s.buf.writeBytes s.dst.toNat ((decryptBlocks (inputBytes s) s.key).take (s.len.toNat - decPad s))
    blkcnt := s.blkcnt + BitVec.ofNat 32 (s.len.toNat / 16), outlen := BitVec.ofNat 32 (s.len.toNat - decPad s) }

/-- 44 R232: no output byte is written, the ranges do not overlap, or DST ≤ SRC. -/
def DecApart (s : State) : Prop :=
  (s.len.toNat - decPad s = 0 ∨ s.dst.toNat + (s.len.toNat - decPad s) ≤ s.src.toNat
      ∨ s.src.toNat + s.len.toNat ≤ s.dst.toNat)
    ∨ s.dst.toNat ≤ s.src.toNat

section Dec

variable {s : State} (hwhole : s.len.toNat % 16 = 0)
include hwhole

/-- Block step k reads block k of the input as it was at acceptance. -/
theorem readBlock_decBefore (hhigh : decPad s ≤ 16) (hapart : DecApart s) {k : Nat} (hk : k < s.len.toNat / 16 - 1) :
    (decBefore s k).buf.readBlock ((decBefore s k).src.toNat + 16 * k) = blockAt (inputBytes s) k := by
  rw [inputBytes, State.bytesAt, blockAt_readBytes _ _ (by omega)]
  refine congrArg Block.ofBytes (funext fun i => ?_)
  have hout : s.src.toNat + 16 * k + i.val < s.dst.toNat ∨ s.dst.toNat + 16 * k ≤ s.src.toNat + 16 * k + i.val := by
    unfold DecApart at hapart
    omega
  exact read_writeBytes_firstBlocks _ _ _ hout

variable (hne : s.len.toNat ≠ 0)
include hne

theorem finalPlaintext_decChecked : finalPlaintext (decChecked s) = decFinal s := by
  rw [decFinal, inputBytes, State.bytesAt, blockAt_readBytes _ _ (by omega)]
  rfl

/-- 44 R232: DecryptECB of the input is decided by the pad length. -/
theorem decryptEcb_inputBytes : decryptEcb (inputBytes s) s.key =
    if decPad s < 1 ∨ decPad s > 16 ∨ decPad s > s.len.toNat then .error .paddingError
    else .ok ((decryptBlocks (inputBytes s) s.key).take (s.len.toNat - decPad s)) := by
  have hwhole' : (inputBytes s).length % 16 = 0 := by rwa [length_inputBytes]
  have hne' : inputBytes s ≠ [] := List.ne_nil_of_length_pos (by rw [length_inputBytes]; omega)
  have hlast := decryptEcb_of_last hwhole' hne' (getElem?_decryptBlocks_last hwhole' hne' s.key)
  rw [length_inputBytes] at hlast
  exact hlast

/-- The plaintext is the first n - 1 decrypted blocks and the unpadded part of W. -/
theorem take_decryptBlocks (hhigh : decPad s ≤ 16) :
    (decryptBlocks (inputBytes s) s.key).take (s.len.toNat - decPad s)
      = firstBlocks (invCipher · (keyExpand s.key)) (inputBytes s) (s.len.toNat / 16 - 1)
        ++ (decFinal s).toList.take (16 - decPad s) := by
  have hsplit : decryptBlocks (inputBytes s) s.key
      = firstBlocks (invCipher · (keyExpand s.key)) (inputBytes s) (s.len.toNat / 16 - 1) ++ (decFinal s).toList := by
    rw [decFinal, ← firstBlocks_succ (invCipher · (keyExpand s.key)), decryptBlocks, mapBlocks_eq_firstBlocks,
      length_inputBytes, Nat.sub_add_cancel (by omega)]
  have hlast : s.len.toNat - decPad s - 16 * (s.len.toNat / 16 - 1) = 16 - decPad s := by omega
  rw [hsplit, List.take_append, length_firstBlocks, hlast,
    List.take_of_length_le (by rw [length_firstBlocks]; omega)]

variable (he : s.events = []) (ha : s.abortReq = false)
include he

theorem step_start_ecbDec (hp : s.phase = .start 0x00000005) (hsrc : s.src.toNat + s.len.toNat ≤ s.bufBytes) :
    step s = .next (decChecked s) := by
  have hstart : engineStep s = execEcbDec s := by
    simp only [engineStep, hp]
    rfl
  rw [step_of_no_events he, hstart, execEcbDec_of_valid hwhole hsrc hne, decChecked]

include ha

/-- The validation step, by the pad length and the output range. -/
theorem step_decChecked (hsrc : s.src.toNat + s.len.toNat ≤ s.bufBytes) : step (decChecked s) = .next
    (if decPad s < 1 ∨ decPad s > 16 ∨ decPad s > s.len.toNat then
        finish .paddingError { decChecked s with w := decFinal s, padLen := decPad s }
      else if s.dst.toNat + (s.len.toNat - decPad s) > s.bufBytes then
        finish .rangeError { decChecked s with w := decFinal s, padLen := decPad s }
      else decBefore s 0) := by
  have hstep : step (decChecked s) = ecbDecValidate (decChecked s) :=
    (step_of_no_events (s := decChecked s) he).trans (engineStep_ecbDecValidate rfl ha)
  have hn : (decChecked s).n ≠ 0 := by
    rw [decChecked_n]
    omega
  have hread : s.src.toNat + 16 * ((decChecked s).n - 1) + 16 ≤ s.bufBytes := by
    rw [decChecked_n]
    omega
  rw [hstep, ecbDecValidate_eq hn hread, holdFinal, finalPlaintext_decChecked hwhole hne, decBefore, BitVec.add_zero]
  rfl

variable (hsrc : s.src.toNat + s.len.toNat ≤ s.bufBytes) (hhigh : decPad s ≤ 16)
  (hdst : s.dst.toNat + (s.len.toNat - decPad s) ≤ s.bufBytes)
include hsrc hhigh hdst

omit hne in
/-- Block step k. -/
theorem step_decBefore (hapart : DecApart s) {k : Nat} (hk : k < s.len.toNat / 16 - 1) :
    step (decBefore s k) = .next (decBefore s (k + 1)) := by
  have hstep : step (decBefore s k) = ecbDecBlock k (decBefore s k) := step_ecbDec he rfl ha
  have hmore : k + 1 < (decBefore s k).n := by
    rw [decBefore_n]
    omega
  have hread : s.src.toNat + 16 * k + 16 ≤ s.bufBytes := by omega
  have hwrite : s.dst.toNat + 16 * k + 16 ≤ s.bufBytes := by omega
  rw [hstep, ecbDecBlock_of_lt hmore hread hwrite, readBlock_decBefore hwhole hhigh hapart hk]
  simp only [decBefore, decChecked, writeBytes_firstBlocks_succ s.buf s.dst.toNat (invCipher · (keyExpand s.key)),
    blkcnt_add_succ]

omit hsrc in
/-- The final step. -/
theorem step_decBefore_last : step (decBefore s (s.len.toNat / 16 - 1)) = .next (decDone s) := by
  have hstep : step (decBefore s (s.len.toNat / 16 - 1))
      = ecbDecBlock (s.len.toNat / 16 - 1) (decBefore s (s.len.toNat / 16 - 1)) := step_ecbDec he rfl ha
  have hcount : s.len.toNat / 16 - 1 + 1 = s.len.toNat / 16 := by omega
  have hpad : decPad s ≤ s.len.toNat := by omega
  have hwrite : s.dst.toNat + 16 * (s.len.toNat / 16 - 1) + (16 - decPad s) ≤ s.bufBytes := by omega
  have hbuf : s.buf.writeBytes s.dst.toNat ((decryptBlocks (inputBytes s) s.key).take (s.len.toNat - decPad s))
      = (decBefore s (s.len.toNat / 16 - 1)).buf.writeBytes (s.dst.toNat + 16 * (s.len.toNat / 16 - 1))
        ((decFinal s).toList.take (16 - decPad s)) := by
    rw [take_decryptBlocks hwhole hne hhigh, Memory.writeBytes_append, length_firstBlocks]
    rfl
  have hblkcnt : s.blkcnt + BitVec.ofNat 32 (s.len.toNat / 16)
      = (decBefore s (s.len.toNat / 16 - 1)).blkcnt + 1 := by
    rw [decBefore, blkcnt_add_succ, hcount]
  rw [hstep, ecbDecBlock_of_last (s := decBefore s (s.len.toNat / 16 - 1)) hcount hhigh hpad hwrite, decDone, hbuf,
    hblkcnt]
  rfl

/-- The whole command, in n + 2 steps. -/
theorem run_ecbDec (hp : s.phase = .start 0x00000005) (hlow : 1 ≤ decPad s) (hapart : DecApart s) :
    core.run (s.len.toNat / 16 + 2) s = .next (decDone s) := by
  have hvalidate := step_decChecked hwhole hne he ha hsrc
  rw [if_neg (by omega), if_neg (by omega)] at hvalidate
  have hcount : s.len.toNat / 16 - 1 + 1 = s.len.toNat / 16 := by omega
  calc core.run (s.len.toNat / 16 + 2) s = core.run (s.len.toNat / 16 + 1) (decChecked s) :=
        run_step (step_start_ecbDec hwhole hne he hp hsrc) _
    _ = core.run (s.len.toNat / 16) (decBefore s 0) := run_step hvalidate _
    _ = core.run (s.len.toNat / 16 - 1 + 1) (decBefore s 0) := by rw [hcount]
    _ = core.run 1 (decBefore s (s.len.toNat / 16 - 1)) :=
        run_chain (f := decBefore s) (fun _ hk => step_decBefore hwhole he ha hsrc hhigh hdst hapart hk) 1
    _ = .next (decDone s) := run_step (step_decBefore_last hwhole hne he ha hhigh hdst) 0

end Dec

/-- Settles O43: DecryptECB and the validation step ask the same of the pad length; then the chain of the block steps. -/
theorem ecbDecComputesDecryptEcb : Obligations.EcbDecComputesDecryptEcb := by
  intro s hp he ha hwhole hne hsrc
  have hrun : core.run 2 s = core.run 1 (decChecked s) := run_step (step_start_ecbDec hwhole hne he hp hsrc) 1
  have hvalidate := step_decChecked hwhole hne he ha hsrc
  have hdecrypt := decryptEcb_inputBytes hwhole hne
  refine ⟨fun e hd => ?_, fun p hd => ?_⟩
  · replace hd := hdecrypt.symm.trans hd
    split at hd
    · cases hd
      rw [if_pos ‹_›] at hvalidate
      exact ⟨_, hrun.trans (run_step hvalidate 0), rfl, rfl, rfl, rfl, rfl, rfl, rfl, rfl⟩
    · cases hd
  · replace hd := hdecrypt.symm.trans hd
    split at hd
    · cases hd
    · rename_i hpad
      injection hd with hd
      have hplen : p.length = s.len.toNat - decPad s := by
        rw [← hd, List.length_take, length_decryptBlocks (by rwa [length_inputBytes]), length_inputBytes]
        omega
      have hbuf : (decDone s).buf = s.buf.writeBytes s.dst.toNat p := congrArg (s.buf.writeBytes s.dst.toNat) hd
      refine ⟨fun hdst => ?_, fun hdst hapart => ?_⟩
      · rw [if_neg hpad, if_pos (by omega)] at hvalidate
        exact ⟨_, hrun.trans (run_step hvalidate 0), rfl, rfl, rfl, rfl, rfl, rfl⟩
      · rw [← List.length_eq_zero_iff, hplen] at hapart
        refine ⟨decDone s, run_ecbDec hwhole hne he ha hsrc (by omega) (by omega) hp (by omega) hapart, ?_, fun x hx => ?_,
          congrArg (BitVec.ofNat 32) hplen.symm, rfl, rfl, rfl, rfl, rfl, rfl⟩
        · rw [State.bytesAt, hbuf, Memory.readBytes_writeBytes]
        · rw [hbuf, Memory.read_writeBytes_outside _ _ _ hx]

end Sys2Proof.Machine
end

section
/-!
PROOF. The control rules (O5, O6, O46, O47, O58): acceptance, the first step and idleness, then that every command completes.
The number of engine steps a running command may still take falls with each of them, and no host access while BUSY = 1 changes
what it is computed from.
-/

namespace Sys2Proof.Machine

/-! ### The next event (00_scope R21) -/

theorem step_of_event {s : State} {e : Event} {rest : List Event} (h : s.events = e :: rest) :
    step s = onEvent e { s with events := rest } := by
  simp only [step, h]

theorem step_of_engine_event {s : State} {rest : List Event} (h : s.events = .engine :: rest) :
    step s = engineStep { s with events := rest } :=
  step_of_event h

/-! ### The first step of a command, and idleness (45 R264, R266, R268) -/

/-- 45 R264: in START(w) the engine's step is the first step of the command `w` decodes to. -/
theorem engineStep_of_decode {s : State} {w : Word} {i : Instr} (hp : s.phase = .start w) (hd : decode w = .ok i) :
    engineStep s = exec i s := by
  simp only [engineStep, hp, firstStep, hd]

/-- 45 R268: an idle engine has no step. -/
theorem engineStep_idle {s : State} (hp : s.phase = .idle) : engineStep s = .next s := by
  simp only [engineStep, hp]

theorem exec_nop (s : State) : exec .nop s = .next (finish .none s) := rfl

/-! ### Host accesses by phase -/

/-- 20_memory R76: while idle a host read changes nothing but the environment's events and responses. -/
theorem respond_hostRead_idle {s : State} (hp : s.phase = .idle) (off size : Nat) :
    respond (hostRead off size s) = { s with responses := (hostRead off size s).1 :: s.responses } := by
  obtain ⟨-, hidle⟩ := hostReadsHaveNoSideEffects s off size
  rw [respond, hidle hp]

/-- 30_encoding R108: while idle a branch changes nothing but the environment's events and responses. -/
theorem branchOnRead_idle {s : State} (hp : s.phase = .idle) (off : Nat) (v : Word) (skip : Nat) :
    ∃ es rs, branchOnRead off v skip s = { s with events := es, responses := rs } := by
  simp only [branchOnRead, respond_hostRead_idle hp]
  split <;> exact ⟨_, _, rfl⟩

/-- 30_encoding R108: while idle a wait ends with its first read. -/
theorem waitRound_idle {s : State} (hp : s.phase = .idle) :
    waitRound s = respond (hostRead Reg.status.offset 4 s) := by
  simp [waitRound, State.busy, hp]

/-- 45 R261: a write to CMD while idle is an acceptance. -/
theorem writeCmd_idle {s : State} (hp : s.phase = .idle) (v : Word) : writeCmd v s = accept v s := by
  simp [writeCmd, State.busy, hp]

/-- 45 R262: a write to CMD while BUSY = 1 is dropped. -/
theorem writeCmd_busy {s : State} (hp : s.phase ≠ .idle) (v : Word) : writeCmd v s = { s with cmdDropped := true } := by
  simp [writeCmd, State.busy, hp]

/-- The step of a host write to CMD. -/
theorem step_of_cmd_write {s : State} {w : Word} {rest : List Event} (h : s.events = .write 0x000C 4 w :: rest) :
    step s = .next (respond (⟨0, false⟩, writeCmd w { s with events := rest })) := by
  have hwrite : ∀ u, hostWrite 0x000C 4 w u = (⟨0, false⟩, writeCmd w u) := hostWrite_offset .cmd w
  rw [step_of_event h, onEvent, hwrite]

/-- 20_memory R77: while BUSY = 1 a host write changes CTRL, STATUS and the abort request at most. -/
theorem hostWrite_state_busy {s : State} (hp : s.phase ≠ .idle) (off size : Nat) (v : Word) :
    ∃ ie done dropped abort, (hostWrite off size v s).2
      = { s with ie := ie, done := done, cmdDropped := dropped, abortReq := abort } := by
  have hbusy : s.busy ≠ false := by simpa [State.busy] using hp
  rcases hostWrite_state off size v s with h | ⟨-, -, h⟩ | ⟨-, -, h⟩ | ⟨-, -, -, h⟩ | ⟨-, -, hidle, -⟩ | ⟨hidle, -⟩
    | ⟨hidle, -⟩
  · exact ⟨_, _, _, _, h⟩
  · exact ⟨_, _, _, _, h⟩
  · exact ⟨_, _, _, _, h.trans (writeStatus_eq v s)⟩
  · exact ⟨_, _, _, _, h⟩
  · exact absurd hidle hbusy
  · exact absurd hidle hbusy
  · exact absurd hidle hbusy

/-! ### How many engine steps a command may take (45 R267) -/

/-- 45 R267: a bound on the engine steps of the command word `w`: setup, ECB_DEC's validation or ECB_ENC's padding block, and
one step for each whole block of LEN; one step for an ECB command whose input does not lie in BUF and for every other word. -/
def commandBound (w : Word) (s : State) : Nat :=
  if (w = 0x00000004 ∨ w = 0x00000005) ∧ s.src.toNat + s.len.toNat ≤ s.bufBytes then s.len.toNat / 16 + 2 else 1

/-- A bound on the engine steps the running command still takes; 0 while idle. -/
def engineStepsLeft (s : State) : Nat :=
  match s.phase with
  | .idle => 0
  | .start w => commandBound w s
  | .ecbEnc k => s.n - k
  | .ecbDecValidate => s.n + 1
  | .ecbDec k => s.n - k

theorem engineStepsLeft_start {s : State} {w : Word} (hp : s.phase = .start w) : engineStepsLeft s = commandBound w s := by
  simp only [engineStepsLeft, hp]

theorem engineStepsLeft_ecbEnc {s : State} {k : Nat} (hp : s.phase = .ecbEnc k) : engineStepsLeft s = s.n - k := by
  simp only [engineStepsLeft, hp]

theorem engineStepsLeft_ecbDecValidate {s : State} (hp : s.phase = .ecbDecValidate) : engineStepsLeft s = s.n + 1 := by
  simp only [engineStepsLeft, hp]

theorem engineStepsLeft_ecbDec {s : State} {k : Nat} (hp : s.phase = .ecbDec k) : engineStepsLeft s = s.n - k := by
  simp only [engineStepsLeft, hp]

theorem one_le_commandBound (w : Word) (s : State) : 1 ≤ commandBound w s := by
  unfold commandBound
  split <;> omega

theorem commandBound_le_size (w : Word) (s : State) : commandBound w s ≤ s.bufBytes / 16 + 3 := by
  unfold commandBound
  split <;> omega

theorem commandBound_le_len (w : Word) (s : State) : commandBound w s ≤ s.len.toNat / 16 + 2 := by
  unfold commandBound
  split <;> omega

theorem commandBound_of_not_ecb {w : Word} (hEnc : w ≠ 0x00000004) (hDec : w ≠ 0x00000005) (s : State) :
    commandBound w s = 1 :=
  if_neg fun ⟨hw, _⟩ => hw.elim hEnc hDec

theorem commandBound_of_ecb {w : Word} {s : State} (hw : w = 0x00000004 ∨ w = 0x00000005)
    (hsrc : s.src.toNat + s.len.toNat ≤ s.bufBytes) : commandBound w s = s.len.toNat / 16 + 2 :=
  if_pos ⟨hw, hsrc⟩

/-- The command is over, and DONE says so. -/
def Completed (s : State) : Prop := s.phase = .idle ∧ s.done = true

/-- 45 R264: the first step of a command completes it, or is the setup step of an ECB command, after which one step for each
whole block of LEN and one more are left. -/
theorem completed_or_setup_of_exec {i : Instr} {s t : State} (h : exec i s = .next t) :
    Completed t ∨ ((i = .ecbEnc ∨ i = .ecbDec) ∧ s.src.toNat + s.len.toNat ≤ s.bufBytes ∧ t.phase ≠ .idle
      ∧ engineStepsLeft t = s.len.toNat / 16 + 1) := by
  rcases exec_next h with ⟨-, rfl⟩ | ⟨-, rfl⟩ | ⟨-, rfl⟩ | ⟨-, -, -, b, rfl⟩ | ⟨-, -, rfl⟩ | ⟨-, rfl⟩ | ⟨hi, h⟩ | ⟨hi, h⟩
  · exact .inl ⟨rfl, rfl⟩
  · exact .inl ⟨rfl, rfl⟩
  · exact .inl ⟨rfl, rfl⟩
  · exact .inl ⟨rfl, rfl⟩
  · exact .inl ⟨rfl, rfl⟩
  · exact .inl ⟨rfl, rfl⟩
  · rcases execEcbEnc_next h with ⟨-, rfl⟩ | ⟨hsrc, -, rfl⟩
    · exact .inl ⟨rfl, rfl⟩
    · exact .inr ⟨.inl hi, hsrc, nofun, rfl⟩
  · rcases execEcbDec_next h with ⟨-, rfl⟩ | ⟨-, -, rfl⟩ | ⟨-, -, rfl⟩ | ⟨-, -, hsrc, rfl⟩
    · exact .inl ⟨rfl, rfl⟩
    · exact .inl ⟨rfl, rfl⟩
    · exact .inl ⟨rfl, rfl⟩
    · exact .inr ⟨.inr hi, hsrc, nofun, rfl⟩

/-- The first step of an accepted word completes it, or leaves it running with fewer steps to take. -/
theorem completed_or_fewer_of_exec {w : Word} {i : Instr} {s t : State} (hd : decode w = .ok i) (h : exec i s = .next t) :
    Completed t ∨ (t.phase ≠ .idle ∧ engineStepsLeft t < commandBound w s) := by
  refine (completed_or_setup_of_exec h).imp_right fun ⟨hi, hsrc, hbusy, hleft⟩ => ⟨hbusy, ?_⟩
  have hw : w = 0x00000004 ∨ w = 0x00000005 := by
    rw [← encode_of_decode hd]
    exact hi.imp (congrArg encode) (congrArg encode)
  rw [commandBound_of_ecb hw hsrc]
  omega

/-- 45 R267: under the invariant a running command has a step to take. -/
theorem engineStepsLeft_pos {s : State} (hs : s.Inv) (hp : s.phase ≠ .idle) : 0 < engineStepsLeft s := by
  have hphase := hs.phase
  cases hk : s.phase with
  | idle => exact absurd hk hp
  | start w => exact engineStepsLeft_start hk ▸ one_le_commandBound w s
  | ecbEnc k =>
    simp only [State.PhaseInv, hk] at hphase
    exact engineStepsLeft_ecbEnc hk ▸ Nat.sub_pos_of_lt hphase.index
  | ecbDecValidate => exact engineStepsLeft_ecbDecValidate hk ▸ Nat.succ_pos s.n
  | ecbDec k =>
    simp only [State.PhaseInv, hk] at hphase
    obtain ⟨-, hwrite⟩ := hphase
    exact engineStepsLeft_ecbDec hk ▸ Nat.sub_pos_of_lt hwrite.index

/-- 45 R267: an engine step of a running command completes it, or leaves it running with fewer steps to take. -/
theorem completed_or_fewer_of_engineStep {s t : State} (hp : s.phase ≠ .idle) (h : engineStep s = .next t) :
    Completed t ∨ (t.phase ≠ .idle ∧ engineStepsLeft t < engineStepsLeft s) := by
  rcases engineStep_next h with ⟨hidle, -⟩ | ⟨_, -, -, rfl⟩ | ⟨w, i, hk, hd, h⟩ | ⟨-, -, rfl⟩ | ⟨k, hk, -, h⟩ | ⟨hk, -, h⟩
    | ⟨k, hk, -, h⟩
  · exact absurd hidle hp
  · exact .inl ⟨rfl, rfl⟩
  · rw [engineStepsLeft_start hk]
    exact completed_or_fewer_of_exec hd h
  · exact .inl ⟨rfl, rfl⟩
  · obtain ⟨hrule, -, -, ⟨-, rfl⟩ | ⟨-, rfl⟩⟩ := ecbEncBlock_next h
    · exact .inl ⟨rfl, rfl⟩
    · have hindex : k < s.n := by
        simp only [encStepHasRule, Bool.and_eq_true, decide_eq_true_eq] at hrule
        exact hrule.1
      rw [engineStepsLeft_ecbEnc hk]
      exact .inr ⟨nofun, Nat.sub_succ_lt_self s.n k hindex⟩
  · obtain ⟨-, -, w, -, ⟨-, rfl⟩ | ⟨-, -, rfl⟩ | ⟨-, -, rfl⟩⟩ := ecbDecValidate_next h
    · exact .inl ⟨rfl, rfl⟩
    · exact .inl ⟨rfl, rfl⟩
    · rw [engineStepsLeft_ecbDecValidate hk]
      exact .inr ⟨nofun, Nat.lt_succ_self s.n⟩
  · rcases ecbDecBlock_next h with ⟨hindex, -, -, rfl⟩ | ⟨-, -, -, -, rfl⟩
    · rw [engineStepsLeft_ecbDec hk]
      exact .inr ⟨nofun, Nat.sub_succ_lt_self s.n k (Nat.lt_of_succ_lt hindex)⟩
    · exact .inl ⟨rfl, rfl⟩

/-! ### Runs that end in a completion (45 R267) -/

/-- After `k` steps the command is over, and DONE says so. -/
def CompletesIn (k : Nat) (s : State) : Prop := ∃ t, core.run k s = .next t ∧ Completed t

theorem completesIn_one {s t : State} (h : step s = .next t) (ht : Completed t) : CompletesIn 1 s :=
  ⟨t, run_step h 0, ht⟩

theorem completesIn_succ {s t : State} {k : Nat} (h : step s = .next t) (ht : CompletesIn k t) : CompletesIn (k + 1) s := by
  obtain ⟨u, hrun, hu⟩ := ht
  exact ⟨u, (run_step h k).trans hrun, hu⟩

theorem events_of_engineStep {s t : State} (h : engineStep s = .next t) : t.events = s.events := by
  have hframe : EngineFrame s t := engineFrame_of_engineStep h
  rw [hframe]

/-- 45 R267: undisturbed, a running command completes within the steps it has left. -/
theorem completes_undisturbed {s : State} (hs : s.Inv) (hp : s.phase ≠ .idle) (he : s.events = []) :
    ∃ k, 1 ≤ k ∧ k ≤ engineStepsLeft s ∧ CompletesIn k s := by
  induction hm : engineStepsLeft s using Nat.strong_induction_on generalizing s with
  | _ m ih =>
    subst hm
    obtain ⟨t, ht⟩ := engineStep_exists hs
    have hstep : step s = .next t := (step_of_no_events he).trans ht
    rcases completed_or_fewer_of_engineStep hp ht with hdone | ⟨hbusy, hfewer⟩
    · exact ⟨1, le_rfl, engineStepsLeft_pos hs hp, completesIn_one hstep hdone⟩
    · obtain ⟨k, -, hk, hrun⟩ :=
        ih _ hfewer (inv_of_engineStep hs ht) hbusy ((events_of_engineStep ht).trans he) rfl
      exact ⟨k + 1, by omega, by omega, completesIn_succ hstep hrun⟩

/-- A host read or a host write. -/
def HostAccess (e : Event) : Prop := (∃ off size, e = .read off size) ∨ ∃ off size v, e = .write off size v

/-- 20_memory R77: while BUSY = 1 a host access leaves the command where it is, with as many steps to take. -/
theorem step_of_hostAccess_busy {s : State} {e : Event} {rest : List Event} (hp : s.phase ≠ .idle) (hhost : HostAccess e)
    (he : s.events = e :: rest) :
    ∃ t, step s = .next t ∧ t.phase = s.phase ∧ t.events = rest ∧ engineStepsLeft t = engineStepsLeft s := by
  rcases hhost with ⟨off, size, rfl⟩ | ⟨off, size, v, rfl⟩
  · refine ⟨_, step_of_event he, ?_⟩
    rcases hostRead_state off size { s with events := rest } with h | ⟨-, -, h⟩ <;> rw [respond, h] <;>
      exact ⟨rfl, rfl, rfl⟩
  · obtain ⟨ie, done, dropped, abort, h⟩ := hostWrite_state_busy (s := { s with events := rest }) hp off size v
    refine ⟨_, step_of_event he, ?_⟩
    rw [respond, h]
    exact ⟨rfl, rfl, rfl⟩

/-- 45 R267: an engine move or a host access completes the running command, or leaves it running with the rest of the list to
come and, after an engine move, with fewer steps to take. -/
theorem completed_or_fewer_of_step {s : State} {e : Event} {rest : List Event} (hs : s.Inv) (hp : s.phase ≠ .idle)
    (hallowed : e = .engine ∨ HostAccess e) (he : s.events = e :: rest) :
    ∃ t, step s = .next t ∧ (Completed t ∨ (t.phase ≠ .idle ∧ t.events = rest
      ∧ engineStepsLeft t + (if e == .engine then 1 else 0) ≤ engineStepsLeft s)) := by
  rcases hallowed with rfl | hhost
  · have hs' : ({ s with events := rest } : State).Inv := hs.sameBlock rfl
    have hp' : ({ s with events := rest } : State).phase ≠ .idle := hp
    obtain ⟨t, ht⟩ := engineStep_exists hs'
    refine ⟨t, (step_of_engine_event he).trans ht, (completed_or_fewer_of_engineStep hp' ht).imp_right ?_⟩
    exact fun ⟨hbusy, hfewer⟩ => ⟨hbusy, events_of_engineStep ht, hfewer⟩
  · obtain ⟨t, hstep, hphase, hte, hleft⟩ := step_of_hostAccess_busy hp hhost he
    have hne : (e == .engine) = false := by rcases hhost with ⟨_, _, rfl⟩ | ⟨_, _, _, rfl⟩ <;> rfl
    refine ⟨t, hstep, .inr ⟨hphase ▸ hp, hte, ?_⟩⟩
    rw [hne, hleft]
    exact le_rfl

/-- 45 R267: under any host accesses, a running command completes at some point of a list that holds as many engine moves as it
has steps left, with no more engine moves before that point. -/
theorem completes_disturbed {s : State} (hs : s.Inv) (hp : s.phase ≠ .idle)
    (hevents : ∀ e ∈ s.events, e = .engine ∨ HostAccess e) (hcount : engineStepsLeft s ≤ s.events.count .engine) :
    ∃ k, 1 ≤ k ∧ k ≤ s.events.length ∧ (s.events.take k).count .engine ≤ engineStepsLeft s ∧ CompletesIn k s := by
  have hpos := engineStepsLeft_pos hs hp
  induction he : s.events generalizing s with
  | nil =>
    rw [he, List.count_nil] at hcount
    omega
  | cons e rest ih =>
    rw [he] at hevents hcount
    obtain ⟨hfirst, hrest⟩ := List.forall_mem_cons.1 hevents
    obtain ⟨t, hstep, hdone | ⟨hbusy, hte, hfewer⟩⟩ := completed_or_fewer_of_step hs hp hfirst he
    · exact ⟨1, le_rfl, Nat.succ_pos _, List.count_le_length.trans hpos, completesIn_one hstep hdone⟩
    · have ht : t.Inv := everyStepKeepsTheInvariant s t hs hstep
      rw [List.count_cons] at hcount
      obtain ⟨k, -, hk, htake, hrun⟩ :=
        ih ht hbusy (hte ▸ hrest) (by rw [hte]; omega) (engineStepsLeft_pos ht hbusy) hte
      refine ⟨k + 1, by omega, Nat.succ_le_succ hk, ?_, completesIn_succ hstep hrun⟩
      rw [List.take_succ_cons, List.count_cons]
      omega

/-! ### The statements -/

/-- Settles O58: the bound is the number of steps left in START(w), which every engine step lowers and no host access changes. -/
theorem everyCommandCompletes : Obligations.EveryCommandCompletes := by
  intro s w hs hstart
  have hp : s.phase ≠ .idle := by simp [hstart]
  have hleft : engineStepsLeft s = commandBound w s := engineStepsLeft_start hstart
  refine ⟨commandBound w s, one_le_commandBound w s, commandBound_le_size w s,
    fun hEnc hDec => commandBound_of_not_ecb hEnc hDec s, fun _ => commandBound_le_len w s, ?_, ?_⟩
  · exact hleft ▸ completes_undisturbed hs hp
  · exact hleft ▸ completes_disturbed hs hp

/-- Settles O5, by the engine's step in START(w) and the ways a first step can end. -/
theorem stepRunsTheAcceptedCommand : Obligations.StepRunsTheAcceptedCommand := by
  refine fun s w hp => ⟨fun i hd => ⟨fun he => ?_, fun rest he => ?_, fun hEnc hDec => ?_⟩,
    fun hd => ⟨fun he => ?_, fun rest he => ?_⟩⟩
  · exact (step_of_no_events he).trans (engineStep_of_decode hp hd)
  · exact (step_of_engine_event he).trans (engineStep_of_decode hp hd)
  · obtain ⟨t, ht⟩ := exec_exists i s
    rcases completed_or_setup_of_exec ht with hdone | ⟨hi, -⟩
    · exact ⟨t, ht, hdone⟩
    · exact absurd hi (not_or.2 ⟨hEnc, hDec⟩)
  · exact (step_of_no_events he).trans (engineStep_of_illegal hp hd)
  · exact (step_of_engine_event he).trans (engineStep_of_illegal hp hd)

/-- Settles O6, event by event: all but a write and reset only move the environment's events and responses. -/
theorem idleEngineHasNoStep : Obligations.IdleEngineHasNoStep := by
  refine ⟨fun s hp => engineStep_idle hp, fun s t hp h => ?_⟩
  cases he : s.events with
  | nil =>
    rw [step_of_no_events he, engineStep_idle hp] at h
    cases h
    exact .inr (.inr rfl)
  | cons e rest =>
    rw [step_of_event he] at h
    have hidle : ({ s with events := rest } : State).phase = .idle := hp
    cases e with
    | write off size v => exact .inl ⟨off, size, v, rest, rfl⟩
    | reset => exact .inr (.inl ⟨rest, rfl⟩)
    | engine =>
      rw [onEvent, engineStep_idle hidle] at h
      cases h
      exact .inr (.inr rfl)
    | read off size =>
      rw [onEvent, respond_hostRead_idle hidle] at h
      cases h
      exact .inr (.inr rfl)
    | wait =>
      rw [onEvent, waitRound_idle hidle, respond_hostRead_idle hidle] at h
      cases h
      exact .inr (.inr rfl)
    | ifReg off v skip =>
      obtain ⟨es, rs, hbranch⟩ := branchOnRead_idle hidle off v skip
      rw [onEvent, hbranch] at h
      cases h
      exact .inr (.inr rfl)

/-- Settles O46: NOP is a completion, and acceptance clears the results. -/
theorem nopOnlyCompletes : Obligations.NopOnlyCompletes :=
  ⟨rfl, exec_nop, fun s => ⟨_, exec_nop (accept 0x00000000 s), rfl, rfl, rfl, rfl, rfl, rfl⟩⟩

/-- Settles O47, by what a write to CMD does in each case. -/
theorem cmdWriteIsAcceptedOrDropped : Obligations.CmdWriteIsAcceptedOrDropped := by
  refine fun s w rest he => ⟨fun hp => ?_, fun hp => ?_⟩
  · rw [step_of_cmd_write he, writeCmd_idle (s := { s with events := rest }) hp]
    rfl
  · rw [step_of_cmd_write he, writeCmd_busy (s := { s with events := rest }) hp]
    rfl

end Sys2Proof.Machine
end

section
/-!
PROOF. Completions and the interrupt (O54, O59): how an engine step of a running command can end, with the cause of the code it
writes; from that the causes of the error codes, and with what a host write does to IE and DONE the rises of IRQ.
-/

namespace Sys2Proof.Machine

/-! ### The causes of the error codes (60 R280) -/

/-- 60 R280: what has to hold in the state before a completion with the code of each kind. -/
def ErrorCause (s : State) : ErrKind → Prop
  | .none => True
  | .invalidKeyLength => False
  | .invalidBlockLength => False
  | .invalidCiphertextLength => s.phase = .start 0x00000005 ∧ s.len.toNat % 16 ≠ 0
  | .paddingError => (s.phase = .start 0x00000005 ∧ s.len.toNat = 0)
      ∨ (s.phase = .ecbDecValidate ∧ (((finalPlaintext s).byte 15).toNat < 1 ∨ 16 < ((finalPlaintext s).byte 15).toNat
        ∨ s.len.toNat < ((finalPlaintext s).byte 15).toNat))
  | .illegalCmd => ∃ w, s.phase = .start w ∧ ∀ i, decode w ≠ .ok i
  | .noSchedule => s.ksValid = false ∧ ∃ w i, s.phase = .start w ∧ decode w = .ok i
      ∧ (i = .encBlock ∨ i = .decBlock ∨ ∃ r, i = .addRoundKey r)
  | .rangeError => (s.phase = .start 0x00000004 ∧ (s.src.toNat + s.len.toNat > s.bufBytes
        ∨ s.dst.toNat + 16 * (s.len.toNat / 16 + 1) > s.bufBytes))
      ∨ (s.phase = .start 0x00000005 ∧ s.src.toNat + s.len.toNat > s.bufBytes)
      ∨ (s.phase = .ecbDecValidate
        ∧ s.dst.toNat + (s.len.toNat - ((finalPlaintext s).byte 15).toNat) > s.bufBytes)
  | .aborted => s.abortReq = true ∧ ∀ w, s.phase ≠ .start w

/-- 60 R280: no two kinds share a code. -/
theorem ErrKind.code_injective : Function.Injective ErrKind.code :=
  Function.LeftInverse.injective (g := fun c => ErrKind.ofNat c.toNat) fun e => by cases e <;> rfl

/-- 60 R282: a code with a cause is one of those ever written. -/
theorem code_mem_of_errorCause {s : State} {e : ErrKind} (h : ErrorCause s e) : e.code ∈ writtenCodes := by
  cases e with
  | invalidKeyLength => exact h.elim
  | invalidBlockLength => exact h.elim
  | _ => decide

/-! ### How an engine step ends -/

/-- `t` is the state after a completion (45 R263) whose code has its cause in `s`. -/
def CompletedFrom (s t : State) : Prop := Completed t ∧ ∃ e, t.errCode = e.code ∧ ErrorCause s e

theorem completedFrom_finish {s u : State} {e : ErrKind} (h : ErrorCause s e) : CompletedFrom s (finish e u) :=
  ⟨⟨rfl, rfl⟩, e, rfl, h⟩

/-- A step after which the command still runs; DONE stays as it is. -/
def StillRunning (s t : State) : Prop := t.phase ≠ .idle ∧ t.done = s.done

/-- 45 R264: the first step of a legal word, as the setup step of ECB_ENC or ECB_DEC or as a whole command. -/
theorem ending_of_exec {w : Word} {i : Instr} {s t : State} (hp : s.phase = .start w) (hd : decode w = .ok i)
    (h : exec i s = .next t) : CompletedFrom s t ∨ StillRunning s t := by
  have hw : encode i = w := encode_of_decode hd
  rcases exec_next h with ⟨-, rfl⟩ | ⟨-, rfl⟩ | ⟨-, rfl⟩ | ⟨-, -, -, b, rfl⟩ | ⟨hi, hks, rfl⟩ | ⟨⟨r, rfl, hr⟩, -⟩
    | ⟨rfl, h⟩ | ⟨rfl, h⟩
  · exact .inl (completedFrom_finish trivial)
  · exact .inl (completedFrom_finish trivial)
  · exact .inl (completedFrom_finish trivial)
  · exact .inl (completedFrom_finish trivial)
  · exact .inl (completedFrom_finish ⟨hks, w, i, hp, hd, hi⟩)
  · have hlegal : r.toNat ≤ 10 := of_decide_eq_true (wf_of_decode hd)
    omega
  · rcases execEcbEnc_next h with ⟨hrange, rfl⟩ | ⟨-, -, rfl⟩
    · exact .inl (completedFrom_finish (.inl ⟨hp.trans (congrArg _ hw.symm), hrange⟩))
    · exact .inr ⟨nofun, rfl⟩
  · have hdec : s.phase = .start 0x00000005 := hp.trans (congrArg _ hw.symm)
    rcases execEcbDec_next h with ⟨hlen, rfl⟩ | ⟨-, hsrc, rfl⟩ | ⟨hempty, -, rfl⟩ | ⟨-, -, -, rfl⟩
    · exact .inl (completedFrom_finish ⟨hdec, hlen⟩)
    · exact .inl (completedFrom_finish (.inr (.inl ⟨hdec, hsrc⟩)))
    · exact .inl (completedFrom_finish (.inl ⟨hdec, hempty⟩))
    · exact .inr ⟨nofun, rfl⟩

/-- An engine step of a running command completes it for a cause the table names, or leaves it running. -/
theorem ending_of_engineStep {s t : State} (hbusy : s.phase ≠ .idle) (h : engineStep s = .next t) :
    CompletedFrom s t ∨ StillRunning s t := by
  rcases engineStep_next h with ⟨hidle, -⟩ | ⟨w, hp, hd, rfl⟩ | ⟨w, i, hp, hd, h⟩ | ⟨hp, ha, rfl⟩ | ⟨k, -, -, h⟩
    | ⟨hp, -, h⟩ | ⟨k, -, -, h⟩
  · exact absurd hidle hbusy
  · exact .inl (completedFrom_finish ⟨w, hp, hd⟩)
  · exact ending_of_exec hp hd h
  · refine .inl (completedFrom_finish ⟨ha, fun w => ?_⟩)
    rcases hp with hp | ⟨k, hp | hp⟩ <;> simp [hp]
  · obtain ⟨-, -, -, ⟨-, rfl⟩ | ⟨-, rfl⟩⟩ := ecbEncBlock_next h
    · exact .inl (completedFrom_finish trivial)
    · exact .inr ⟨nofun, rfl⟩
  · obtain ⟨-, -, w, rfl, ⟨hpad, rfl⟩ | ⟨-, hdst, rfl⟩ | ⟨-, -, rfl⟩⟩ := ecbDecValidate_next h
    · exact .inl (completedFrom_finish (.inr ⟨hp, hpad⟩))
    · exact .inl (completedFrom_finish (.inr (.inr ⟨hp, hdst⟩)))
    · exact .inr ⟨nofun, rfl⟩
  · rcases ecbDecBlock_next h with ⟨-, -, -, rfl⟩ | ⟨-, -, -, -, rfl⟩
    · exact .inr ⟨nofun, rfl⟩
    · exact .inl (completedFrom_finish trivial)

/-! ### What raises the interrupt (60 R290, R291) -/

/-- 60 R291: an engine step raises IRQ by a completion only, and never by IE. -/
theorem completed_of_engineStep_raises {s t : State} (h : engineStep s = .next t) (hs : s.irq = false)
    (ht : t.irq = true) : s.phase ≠ .idle ∧ t.phase = .idle ∧ t.done = true ∧ t.ie = s.ie := by
  have hie : t.ie = s.ie := by rw [engineFrame_of_engineStep h]
  have hchange : t.done ≠ s.done := fun hdone => by
    rw [State.irq, hie, hdone] at ht
    exact Bool.false_ne_true (hs.symm.trans ht)
  have hbusy : s.phase ≠ .idle := fun hidle => by
    rw [engineStep_idle hidle] at h
    cases h
    exact hchange rfl
  rcases ending_of_engineStep hbusy h with ⟨⟨hidle, hdone⟩, -⟩ | ⟨-, hkept⟩
  · exact ⟨hbusy, hidle, hdone, hie⟩
  · exact absurd hkept hchange

/-- 60 R290: a host write raises IRQ by setting IE in CTRL while DONE = 1 only. -/
theorem ctrl_of_hostWrite_raises {s : State} {off size : Nat} {v : Word} (hs : s.irq = false)
    (ht : (hostWrite off size v s).2.irq = true) :
    off = 0x0000 ∧ size = 4 ∧ v.getLsbD 0 = true ∧ s.done = true ∧ s.ie = false := by
  have hlow : (s.ie && s.done) ≠ true := Bool.eq_false_iff.1 hs
  rcases hostWrite_state off size v s with h | ⟨hoff, hsize, h⟩ | ⟨-, -, h⟩ | ⟨-, -, -, h⟩ | ⟨-, -, -, h⟩
    | ⟨-, _, _, _, _, _, _, _, h⟩ | ⟨-, _, _, -, h⟩ <;> rw [h, State.irq] at ht
  · exact absurd ht hlow
  · obtain ⟨hset, hdone⟩ : v.getLsbD 0 = true ∧ s.done = true := (Bool.and_eq_true _ _).mp ht
    exact ⟨hoff, hsize, hset, hdone, by simpa [hdone] using hlow⟩
  · simp only [writeStatus_eq, ← Bool.and_assoc] at ht
    exact absurd (Bool.and_elim_left ht) hlow
  · exact absurd ht hlow
  · simp at ht
  · exact absurd ht hlow
  · exact absurd ht hlow

/-! ### The statements -/

/-- Settles O59: a completing engine step has the cause of its code, and the codes tell the kinds apart. -/
theorem errorCodesHaveTheirCauses : Obligations.ErrorCodesHaveTheirCauses := by
  intro s t hbusy h hidle
  rcases ending_of_engineStep hbusy h with ⟨-, e, hcode, hcause⟩ | ⟨hrunning, -⟩
  · have cause : ∀ e' : ErrKind, t.errCode = e'.code → ErrorCause s e' := fun e' h' =>
      ErrKind.code_injective (hcode.symm.trans h') ▸ hcause
    refine ⟨?_, cause .invalidCiphertextLength, fun h' => ?_, cause .illegalCmd, cause .noSchedule, fun h' => ?_,
      cause .aborted⟩
    · simpa [hcode, writtenCodes] using code_mem_of_errorCause hcause
    · exact (cause .paddingError h').imp_right fun ⟨hp, hpad⟩ => ⟨hp, _, rfl, hpad⟩
    · exact (cause .rangeError h').imp_right (.imp_right fun ⟨hp, hdst⟩ => ⟨hp, _, rfl, hdst⟩)
  · exact absurd hidle hrunning

/-- Settles O54, by what each kind of step can do to IE and DONE. -/
theorem interruptFollowsCompletion : Obligations.InterruptFollowsCompletion := by
  refine ⟨fun s => rfl, rfl, fun s t h hs ht => ?_, fun s => ?_, fun s w hp => ?_⟩
  · rcases step_next h with ⟨-, h⟩ | ⟨rest, -, h⟩ | ⟨-, -, hsame⟩ | ⟨off, size, v, rest, he, rfl⟩ | ⟨rest, -, rfl⟩
    · exact .inl (completed_of_engineStep_raises h hs ht)
    · exact .inl (completed_of_engineStep_raises (s := { s with events := rest }) h hs ht)
    · rw [hsame] at ht
      exact absurd (hs.symm.trans ht) Bool.false_ne_true
    · obtain ⟨rfl, rfl, hset, hdone, hie⟩ := ctrl_of_hostWrite_raises (s := { s with events := rest }) hs ht
      exact .inr ⟨hdone, hie, v, rest, he, hset⟩
    · exact absurd ht Bool.false_ne_true
  · have hstatus : (hostWrite 0x0004 4 0x00000002 s).2 = writeStatus 0x00000002 s :=
      hostWrite_state_at (r := .status) rfl rfl
    rw [hstatus, writeStatus_eq]
    simp [State.irq]
  · have hcmd : (hostWrite 0x000C 4 w s).2 = accept w s := hostWrite_state_at (r := .cmd) rfl (writeCmd_idle hp w)
    rw [hcmd, State.irq, accept_done, Bool.and_false]

end Sys2Proof.Machine
end

section
/-!
PROOF. The round keys after reset (O8): the first two elements tell the zero bytes of RK from every schedule, and without a
schedule the three commands that need one end in NO_SCHEDULE.
-/

namespace Sys2Proof.Machine

/-! ### Zero round keys are no schedule (70 R324) -/

/-- 70 R324: RK[1] of the zero key. -/
theorem get_one_keyExpand_zero : (keyExpand .zero).get 1 = .ofCols fun _ => ⟨0x62, 0x63, 0x63, 0x63⟩ := by decide

/-- RK[0] = 0 leaves only the zero key, whose RK[1] is not zero. -/
theorem keyExpand_ne_zero (key : Block) : keyExpand key ≠ .zero := by
  intro h
  have hkey : key = .zero := (get_zero_keyExpand key).symm.trans (congrArg (RoundKeys.get · 0) h)
  subst hkey
  have hone : (.ofCols fun _ => ⟨0x62, 0x63, 0x63, 0x63⟩ : Block) = .zero :=
    get_one_keyExpand_zero.symm.trans (congrArg (RoundKeys.get · 1) h)
  exact absurd hone (by decide)

/-! ### The commands that need a schedule (41 R161, 43 R196, R198) -/

theorem exec_of_noSchedule {s : State} {i : Instr} (hvalid : s.ksValid = false) (hwf : i.wf = true)
    (hi : i = .encBlock ∨ i = .decBlock ∨ ∃ r, i = .addRoundKey r) : exec i s = .next (finish .noSchedule s) := by
  rcases hi with rfl | rfl | ⟨r, rfl⟩
  · exact cryptBlk_of_noSchedule cipher hvalid
  · exact cryptBlk_of_noSchedule invCipher hvalid
  · have hlegal : r.toNat ≤ 10 := of_decide_eq_true hwf
    rw [exec_addRoundKey_of_select (select_of_le hlegal s.rk), if_neg (Bool.eq_false_iff.1 hvalid)]

/-! ### The statement -/

/-- Settles O8: no key expands to the reset value of RK, and each of the three commands checks KS_VALID. -/
theorem resetRoundKeysAreNoSchedule : Obligations.ResetRoundKeysAreNoSchedule :=
  ⟨rfl, rfl, keyExpand_ne_zero, get_one_keyExpand_zero, fun _ _ => exec_of_noSchedule⟩

end Sys2Proof.Machine
end
